-- ==== Sys2Proof/Word.lean ====
section
/-! DEFINITION. The four operand widths of the core as bit vectors (00_scope.md R3, R5) and the raw 16-byte operand field. -/

namespace Sys2Proof

/-- A byte, 8 bits (00_scope.md R5). -/
abbrev Byte := BitVec 8

/-- A word, 16 bits (00_scope.md R5). -/
abbrev Word := BitVec 16

/-- A dword, 32 bits (00_scope.md R5). -/
abbrev DWord := BitVec 32

/-- A qword, 64 bits: the width of every register and of every address (00_scope.md R3: `XLEN`, `ALEN`). -/
abbrev QWord := BitVec 64

/-- The 16 operand bytes of the Absolute family, byte `f0` in the low bits (30_encoding.md R61). The core never reads the field
whole (20_memory.md R48). -/
abbrev Field := BitVec 128

end Sys2Proof
end

