-- ==== Sys2Proof/Config.lean ====
section
/-! DEFINITION. The vocabulary of the opcode map (modes, width tags, handlers), the open parameters of the hardware as types, and the
two open cycle costs as constants without a body (00_scope.md R3, R4). The VALUES this hardware takes (`endian`, `relBase`, `opcodeMap`, the
cycle and length tables) stand in Machine/Bytes.lean, Decode.lean and Machine/Operands.lean. -/

namespace Sys2Proof

/-- `ENDIAN`: the byte order of the host's facade (00_scope.md R4, 20_memory.md R45). -/
inductive Endian where
  | little
  | big
  deriving DecidableEq, Repr

/-- `REL_BASE`: what a relative displacement counts from (00_scope.md R4, 40_addressing_modes.md R90): 0, the address of the
displacement field, or 2, the address of the next instruction. -/
inductive RelBase where
  | operandField
  | nextInstruction
  deriving DecidableEq, Repr

/-- The addressing modes of 40_addressing_modes.md R82. The disabled families (direct page, zero-cache indirect) have no
constructor: an opcode map cannot name them (93_implementation_defined.md U6). -/
inductive Mode where
  | impl       -- implied
  | acc        -- accumulator
  | imm8       -- immediate byte
  | imm16      -- immediate word
  | imm32      -- immediate dword
  | imm64      -- immediate qword
  | abs        -- absolute `a`
  | absX       -- absolute,X `a,X`
  | absY       -- absolute,Y `a,Y`
  | absInd     -- absolute indirect `(a)`
  | absXInd    -- absolute indexed indirect `(a,X)`
  | rel        -- relative `d`
  | sr         -- stack-relative `d,S`
  | srIY       -- stack-relative indirect indexed `(d,S),Y`
  deriving DecidableEq, Repr

/-- The width tag of a size-polymorphic handler (30_encoding.md R63). -/
inductive Width where
  | byte
  | word
  | dword
  | qword
  deriving DecidableEq, Repr

/-- The handlers the spec describes (00_scope.md section 3). ADC is one handler with a width tag (41_adc.md R100). -/
inductive Handler where
  | adc
  | bcc | bcs | beq | bne | bmi | bpl | bvc | bvs | bra | brl
  | jmp | jsr | rts
  | brk | cop | stp | wai
  | mvn | mvp
  | tax | tay | txa | txy | tya | tyx | tsa | tsx | tas | txs | tba | tcd | tdc
  | pha | phx | phy | pla | plx | ply | pea | pei | per | php | plp
  | rep | sep | trb | tsb
  | asl | lsr | rol | ror
  | aslA | lsrA | rolA | rorA
  deriving DecidableEq, Repr

/-- One entry of an opcode map: (mode, handler, width tag or none) (30_encoding.md R66). -/
structure Entry where
  mode    : Mode
  handler : Handler
  tag     : Option Width
  deriving DecidableEq, Repr

/-- `OPCODE_MAP`, a partial function from bytes to entries, as plain data (30_encoding.md R66). -/
abbrev OpcodeMap := List (Byte × Entry)

/-- `FETCH_CYC`, the cycles of the opcode fetch: an open parameter without a default (40_addressing_modes.md R81, decision D26).
A free value: nothing can be proved of which number it is (log 8). -/
opaque Config.fetchCyc : Nat

/-- `HCYC`, a handler's own cycles: an open parameter without a default for every handler but the branches and BRK, which never
consult it (40_addressing_modes.md R81, decision D26). A free value (log 8). -/
opaque Config.hcyc : Handler → Nat

end Sys2Proof
end

