-- ==== Sys2Proof/Machine/Bytes.lean ====
section
/-! DEFINITION. Byte order, truncation and sign extension: how a multi-byte value lies in bytes (20_memory.md R45) and the two
width changes of the spec's notation (00_scope.md R5). -/

namespace Sys2Proof

/-- `ENDIAN = little`, this spec's default (20_memory.md R45, decision D5; log 5). Every access of more than one byte takes the order as
an argument, and `step` leaves it at this value. -/
def endian : Endian := .little

/-- The `n` low bytes of `v`, least significant first. -/
def leBytes : Nat → Nat → List Byte
  | 0, _ => []
  | n + 1, v => BitVec.ofNat 8 v :: leBytes n (v / 256)

/-- The number whose bytes, least significant first, are `bs`. -/
def leNat : List Byte → Nat
  | [] => 0
  | b :: bs => b.toNat + 256 * leNat bs

/-- `v` as `n` bytes in rising address order, in the facade's byte order (20_memory.md R45). -/
def toBytes (e : Endian) (n v : Nat) : List Byte :=
  match e with
  | .little => leBytes n v
  | .big => (leBytes n v).reverse

/-- The number that bytes in rising address order stand for, in the facade's byte order (20_memory.md R45). -/
def ofBytes (e : Endian) (bs : List Byte) : Nat :=
  match e with
  | .little => leNat bs
  | .big => leNat bs.reverse

/-- `trunc16(v) = zext_64(v[15:0])` (00_scope.md R5). -/
def trunc16 (v : QWord) : QWord := (v.setWidth 16).setWidth 64

/-- `v[15:0]`. -/
def lowWord (v : QWord) : Word := v.setWidth 16

/-- `R[15:0] <- v`: the low 16 bits replaced, bits 63 to 16 kept (10_state.md R13). -/
def mergeLow (r : QWord) (v : Word) : QWord := (r >>> 16 <<< 16) ||| v.setWidth 64

/-- `sext_64` of a 16-bit displacement (00_scope.md R5). -/
def sext16 (d : Word) : QWord := d.signExtend 64

/-- `sext_64` of an 8-bit displacement (00_scope.md R5). -/
def sext8 (d : Byte) : QWord := d.signExtend 64

/-- The 16-bit words in a run of bytes, in the facade's byte order; an odd last byte is dropped (COP's payload is of even
length, 43_traps_halts.md R131). -/
def wordsOfBytes (e : Endian) : List Byte → List Word
  | b0 :: b1 :: bs => BitVec.ofNat 16 (ofBytes e [b0, b1]) :: wordsOfBytes e bs
  | _ => []

/-- The bytes of a list of 16-bit words, in the facade's byte order. -/
def bytesOfWords (e : Endian) : List Word → List Byte
  | [] => []
  | w :: ws => toBytes e 2 w.toNat ++ bytesOfWords e ws

end Sys2Proof
end

