-- ==== Sys2Proof/Syntax.lean ====
section
/-! DEFINITION. The instructions: one constructor for each row of the default opcode map (30_encoding.md R67), with every operand byte
the row's format gives it (30_encoding.md R61). -/

namespace Sys2Proof

/-- An instruction with its operand bytes.
`f`: the 16 raw bytes of the Absolute family; `d`: a displacement; `i`: an immediate; `p`: a pointer;
`x`: the 8 trailing bytes `x8` to `x15` that nothing reads (30_encoding.md R61, R69). -/
inductive Instr where
  -- 41_adc.md
  | adcImm8  (i : Byte)
  | adcImm16 (i : Word)
  | adcImm32 (i : DWord)
  | adcImm64 (i : QWord) (x : QWord)
  | adcAbs   (f : Field)
  | adcAbsX  (f : Field)
  | adcAbsY  (f : Field)
  | adcSR    (d : Byte)
  | adcSRIY  (d : Byte)
  -- 42_branches_jumps.md
  | bcc (d : Word)
  | bcs (d : Word)
  | beq (d : Word)
  | bne (d : Word)
  | bmi (d : Word)
  | bpl (d : Word)
  | bvc (d : Word)
  | bvs (d : Word)
  | bra (d : Word)
  | brl (d : Word)
  | jmpAbs  (f : Field)
  | jmpInd  (p : QWord) (x : QWord)
  | jmpXInd (f : Field)
  | jsrAbs  (f : Field)
  | jsrXInd (f : Field)
  | rts
  -- 43_traps_halts.md
  | brk
  | cop (size : Byte) (op : Byte) (words : List Word)
  | stp
  | wai
  -- 44_block_move.md
  | mvn
  | mvp
  -- 45_transfers.md
  | tax
  | tay
  | txa
  | txy
  | tya
  | tyx
  | tsa
  | tsx
  | tas
  | txs
  | tba
  | tcd
  | tdc
  -- 46_stack.md
  | pha
  | phx
  | phy
  | pla
  | plx
  | ply
  | peaAbs (f : Field)
  | peiInd (p : QWord) (x : QWord)
  | perRel (d : Word)
  | php
  | plp
  -- 47_flag_bit_ops.md
  | repImm8 (i : Byte)
  | sepImm8 (i : Byte)
  | trbAbs  (f : Field)
  | tsbAbs  (f : Field)
  -- 48_shifts.md
  | aslAbs  (f : Field)
  | aslAbsX (f : Field)
  | lsrAbs  (f : Field)
  | lsrAbsX (f : Field)
  | rolAbs  (f : Field)
  | rolAbsX (f : Field)
  | rorAbs  (f : Field)
  | rorAbsX (f : Field)
  | aslA
  | lsrA
  | rolA
  | rorA
  deriving DecidableEq, Repr

end Sys2Proof
end

