-- ==== Sys2Proof/WellFormed.lean ====
section
/-! DEFINITION. Well-formed instructions, and the well-formedness condition on an opcode map (30_encoding.md R64, R66). -/

namespace Sys2Proof

/-- An instruction is well-formed when a COP carries exactly `size` words (30_encoding.md R64, 10_state.md R22). Every other operand
is whole by its type. -/
def Instr.wf : Instr → Bool
  | .cop size _ words => words.length == size.toNat
  | _ => true

/-- The handlers that use their effective address (30_encoding.md R66). -/
def Handler.usesEa : Handler → Bool
  | .adc
  | .bcc | .bcs | .beq | .bne | .bmi | .bpl | .bvc | .bvs | .bra | .brl
  | .jmp | .jsr | .cop | .pea | .pei | .per | .rep | .sep | .trb | .tsb
  | .asl | .lsr | .rol | .ror => true
  | _ => false

/-- The modes whose effective address is "unused" (40_addressing_modes.md R88). -/
def Mode.unusedEa : Mode → Bool
  | .impl | .acc => true
  | _ => false

/-- An entry is well-formed when a handler that uses its effective address has a mode that gives one (30_encoding.md R66), and
when ADC, and ADC alone, carries a width tag (30_encoding.md R63, 93_implementation_defined.md U16). -/
def Entry.wf (e : Entry) : Bool :=
  !(e.handler.usesEa && e.mode.unusedEa) && (e.tag.isSome == (e.handler == .adc))

/-- An opcode map is well-formed when it gives no byte two entries and every entry is well-formed (30_encoding.md R66). -/
def OpcodeMap.wf (m : OpcodeMap) : Bool :=
  decide (m.map Prod.fst).Nodup && m.all (fun r => r.2.wf)

end Sys2Proof
end

