-- ==== Sys2Proof/Decode.lean ====
section
/-! DEFINITION. The default opcode map, the decoder and the encoder (30_encoding.md), and the decoder on the opcode table's numbering
of bits. -/

namespace Sys2Proof

/-- `DEFAULT_OPCODE_MAP`, row by row in the order of 30_encoding.md R67 (decisions D1, D2, D3, D36; log 7). A byte without a row is
unassigned (R68). Written in four pieces. -/
def opcodeMap : OpcodeMap :=
    [
      (0x00, ⟨.impl, .brk, none⟩), (0x02, ⟨.imm8, .cop, none⟩), (0x08, ⟨.impl, .php, none⟩),
      (0x0A, ⟨.acc, .aslA, none⟩), (0x0C, ⟨.abs, .tsb, none⟩), (0x0E, ⟨.abs, .asl, none⟩),
      (0x10, ⟨.rel, .bpl, none⟩), (0x1B, ⟨.impl, .tas, none⟩), (0x1C, ⟨.abs, .trb, none⟩),
      (0x1E, ⟨.absX, .asl, none⟩), (0x20, ⟨.abs, .jsr, none⟩), (0x28, ⟨.impl, .plp, none⟩),
      (0x2A, ⟨.acc, .rolA, none⟩), (0x2E, ⟨.abs, .rol, none⟩), (0x30, ⟨.rel, .bmi, none⟩),
      (0x3B, ⟨.impl, .tsa, none⟩), (0x3E, ⟨.absX, .rol, none⟩), (0x44, ⟨.impl, .mvp, none⟩) ]
    ++
    [
      (0x48, ⟨.impl, .pha, none⟩), (0x4A, ⟨.acc, .lsrA, none⟩), (0x4C, ⟨.abs, .jmp, none⟩),
      (0x4E, ⟨.abs, .lsr, none⟩), (0x50, ⟨.rel, .bvc, none⟩), (0x54, ⟨.impl, .mvn, none⟩),
      (0x5A, ⟨.impl, .phy, none⟩), (0x5B, ⟨.impl, .tcd, none⟩), (0x5E, ⟨.absX, .lsr, none⟩),
      (0x60, ⟨.impl, .rts, none⟩), (0x61, ⟨.imm8, .adc, some .byte⟩), (0x62, ⟨.rel, .per, none⟩),
      (0x63, ⟨.sr, .adc, some .qword⟩), (0x65, ⟨.imm16, .adc, some .word⟩), (0x67, ⟨.imm32, .adc, some .dword⟩),
      (0x68, ⟨.impl, .pla, none⟩), (0x69, ⟨.imm64, .adc, some .qword⟩), (0x6A, ⟨.acc, .rorA, none⟩) ]
    ++
    [
      (0x6C, ⟨.absInd, .jmp, none⟩), (0x6D, ⟨.abs, .adc, some .qword⟩), (0x6E, ⟨.abs, .ror, none⟩),
      (0x70, ⟨.rel, .bvs, none⟩), (0x73, ⟨.srIY, .adc, some .qword⟩), (0x79, ⟨.absY, .adc, some .qword⟩),
      (0x7A, ⟨.impl, .ply, none⟩), (0x7B, ⟨.impl, .tdc, none⟩), (0x7C, ⟨.absXInd, .jmp, none⟩),
      (0x7D, ⟨.absX, .adc, some .qword⟩), (0x7E, ⟨.absX, .ror, none⟩), (0x80, ⟨.rel, .bra, none⟩),
      (0x82, ⟨.rel, .brl, none⟩), (0x8A, ⟨.impl, .txa, none⟩), (0x90, ⟨.rel, .bcc, none⟩),
      (0x98, ⟨.impl, .tya, none⟩), (0x9A, ⟨.impl, .txs, none⟩), (0x9B, ⟨.impl, .txy, none⟩) ]
    ++
    [
      (0xA8, ⟨.impl, .tay, none⟩), (0xAA, ⟨.impl, .tax, none⟩), (0xB0, ⟨.rel, .bcs, none⟩),
      (0xBA, ⟨.impl, .tsx, none⟩), (0xBB, ⟨.impl, .tyx, none⟩), (0xC2, ⟨.imm8, .rep, none⟩),
      (0xCB, ⟨.impl, .wai, none⟩), (0xD0, ⟨.rel, .bne, none⟩), (0xD4, ⟨.absInd, .pei, none⟩),
      (0xDA, ⟨.impl, .phx, none⟩), (0xDB, ⟨.impl, .stp, none⟩), (0xE2, ⟨.imm8, .sep, none⟩),
      (0xEB, ⟨.impl, .tba, none⟩), (0xF0, ⟨.rel, .beq, none⟩), (0xF4, ⟨.abs, .pea, none⟩),
      (0xFA, ⟨.impl, .plx, none⟩), (0xFC, ⟨.absXInd, .jsr, none⟩) ]

/-- Why the decoder gives no instruction. `unassigned b`: no row of the map has the opcode byte `b` (30_encoding.md R68).
`truncated`: the bytes end before the instruction does; a fetch never meets it, since it takes as many bytes as the opcode
(and a COP's size byte) ask for. -/
inductive DecodeError where
  | unassigned (b : Byte)
  | truncated
  deriving DecidableEq, Repr

/-- What decoding answers: an instruction and the bytes after it, or the reason there is none. -/
abbrev Decoded := Except DecodeError (Instr × List Byte)

/-- Take `n` operand bytes and build the instruction from them. -/
def operand (n : Nat) (k : List Byte → Instr) (r : List Byte) : Decoded :=
  if n ≤ r.length then .ok (k (r.take n), r.drop n) else .error .truncated

/-- Formats IMPL and ACC: no operand byte (30_encoding.md R61). -/
def implied (i : Instr) (r : List Byte) : Decoded := .ok (i, r)

/-- Formats IMM8, SR and SRIY: one operand byte (30_encoding.md R61). -/
def imm8Fmt (k : Byte → Instr) : List Byte → Decoded :=
  operand 1 fun b => k (BitVec.ofNat 8 (ofBytes endian b))

/-- Format IMM16: two operand bytes (30_encoding.md R61). -/
def imm16Fmt (k : Word → Instr) : List Byte → Decoded :=
  operand 2 fun b => k (BitVec.ofNat 16 (ofBytes endian b))

/-- Format IMM32: four operand bytes (30_encoding.md R61). -/
def imm32Fmt (k : DWord → Instr) : List Byte → Decoded :=
  operand 4 fun b => k (BitVec.ofNat 32 (ofBytes endian b))

/-- Formats IMM64 and ABSIND: an 8-byte value, then 8 bytes that nothing reads (30_encoding.md R61). -/
def imm64Fmt (k : QWord → QWord → Instr) : List Byte → Decoded :=
  operand 16 fun b => k (BitVec.ofNat 64 (ofBytes endian (b.take 8))) (BitVec.ofNat 64 (leNat (b.drop 8)))

/-- Formats ABS, ABSX, ABSY and ABSXIND: a field of 16 bytes (30_encoding.md R61). -/
def absFmt (k : Field → Instr) : List Byte → Decoded :=
  operand 16 fun b => k (BitVec.ofNat 128 (leNat b))

/-- Format REL: a two-byte displacement (30_encoding.md R61). -/
def relFmt (k : Word → Instr) : List Byte → Decoded := imm16Fmt k

/-- Format COPF: a size byte, the COP opcode byte, then `size` words (30_encoding.md R64). -/
def copFmt : List Byte → Decoded
  | size :: op :: r => operand (2 * size.toNat) (fun b => .cop size op (wordsOfBytes endian b)) r
  | _ => .error .truncated

/-- Dispatch on the opcode byte `b` alone (30_encoding.md R65); `r` is what follows it. -/
def decodeOp (b : Byte) (r : List Byte) : Decoded :=
  match b with
  | 0x00#8 => implied .brk r
  | 0x02#8 => copFmt r
  | 0x08#8 => implied .php r
  | 0x0A#8 => implied .aslA r
  | 0x0C#8 => absFmt .tsbAbs r
  | 0x0E#8 => absFmt .aslAbs r
  | 0x10#8 => relFmt .bpl r
  | 0x1B#8 => implied .tas r
  | 0x1C#8 => absFmt .trbAbs r
  | 0x1E#8 => absFmt .aslAbsX r
  | 0x20#8 => absFmt .jsrAbs r
  | 0x28#8 => implied .plp r
  | 0x2A#8 => implied .rolA r
  | 0x2E#8 => absFmt .rolAbs r
  | 0x30#8 => relFmt .bmi r
  | 0x3B#8 => implied .tsa r
  | 0x3E#8 => absFmt .rolAbsX r
  | 0x44#8 => implied .mvp r
  | 0x48#8 => implied .pha r
  | 0x4A#8 => implied .lsrA r
  | 0x4C#8 => absFmt .jmpAbs r
  | 0x4E#8 => absFmt .lsrAbs r
  | 0x50#8 => relFmt .bvc r
  | 0x54#8 => implied .mvn r
  | 0x5A#8 => implied .phy r
  | 0x5B#8 => implied .tcd r
  | 0x5E#8 => absFmt .lsrAbsX r
  | 0x60#8 => implied .rts r
  | 0x61#8 => imm8Fmt .adcImm8 r
  | 0x62#8 => relFmt .perRel r
  | 0x63#8 => imm8Fmt .adcSR r
  | 0x65#8 => imm16Fmt .adcImm16 r
  | 0x67#8 => imm32Fmt .adcImm32 r
  | 0x68#8 => implied .pla r
  | 0x69#8 => imm64Fmt .adcImm64 r
  | 0x6A#8 => implied .rorA r
  | 0x6C#8 => imm64Fmt .jmpInd r
  | 0x6D#8 => absFmt .adcAbs r
  | 0x6E#8 => absFmt .rorAbs r
  | 0x70#8 => relFmt .bvs r
  | 0x73#8 => imm8Fmt .adcSRIY r
  | 0x79#8 => absFmt .adcAbsY r
  | 0x7A#8 => implied .ply r
  | 0x7B#8 => implied .tdc r
  | 0x7C#8 => absFmt .jmpXInd r
  | 0x7D#8 => absFmt .adcAbsX r
  | 0x7E#8 => absFmt .rorAbsX r
  | 0x80#8 => relFmt .bra r
  | 0x82#8 => relFmt .brl r
  | 0x8A#8 => implied .txa r
  | 0x90#8 => relFmt .bcc r
  | 0x98#8 => implied .tya r
  | 0x9A#8 => implied .txs r
  | 0x9B#8 => implied .txy r
  | 0xA8#8 => implied .tay r
  | 0xAA#8 => implied .tax r
  | 0xB0#8 => relFmt .bcs r
  | 0xBA#8 => implied .tsx r
  | 0xBB#8 => implied .tyx r
  | 0xC2#8 => imm8Fmt .repImm8 r
  | 0xCB#8 => implied .wai r
  | 0xD0#8 => relFmt .bne r
  | 0xD4#8 => imm64Fmt .peiInd r
  | 0xDA#8 => implied .phx r
  | 0xDB#8 => implied .stp r
  | 0xE2#8 => imm8Fmt .sepImm8 r
  | 0xEB#8 => implied .tba r
  | 0xF0#8 => relFmt .beq r
  | 0xF4#8 => absFmt .peaAbs r
  | 0xFA#8 => implied .plx r
  | 0xFC#8 => absFmt .jsrXInd r
  | _ => .error (.unassigned b)

/-- The decoder: total on any bytes; it answers the first instruction and the bytes after it, or why there is none
(30_encoding.md R60, R65, R68). -/
def decode : List Byte → Decoded
  | [] => .error .truncated
  | b :: r => decodeOp b r

/-- The opcode byte of an instruction (30_encoding.md R67). -/
def Instr.opcode : Instr → Byte
  | .brk => 0x00
  | .cop _ _ _ => 0x02
  | .php => 0x08
  | .aslA => 0x0A
  | .tsbAbs _ => 0x0C
  | .aslAbs _ => 0x0E
  | .bpl _ => 0x10
  | .tas => 0x1B
  | .trbAbs _ => 0x1C
  | .aslAbsX _ => 0x1E
  | .jsrAbs _ => 0x20
  | .plp => 0x28
  | .rolA => 0x2A
  | .rolAbs _ => 0x2E
  | .bmi _ => 0x30
  | .tsa => 0x3B
  | .rolAbsX _ => 0x3E
  | .mvp => 0x44
  | .pha => 0x48
  | .lsrA => 0x4A
  | .jmpAbs _ => 0x4C
  | .lsrAbs _ => 0x4E
  | .bvc _ => 0x50
  | .mvn => 0x54
  | .phy => 0x5A
  | .tcd => 0x5B
  | .lsrAbsX _ => 0x5E
  | .rts => 0x60
  | .adcImm8 _ => 0x61
  | .perRel _ => 0x62
  | .adcSR _ => 0x63
  | .adcImm16 _ => 0x65
  | .adcImm32 _ => 0x67
  | .pla => 0x68
  | .adcImm64 _ _ => 0x69
  | .rorA => 0x6A
  | .jmpInd _ _ => 0x6C
  | .adcAbs _ => 0x6D
  | .rorAbs _ => 0x6E
  | .bvs _ => 0x70
  | .adcSRIY _ => 0x73
  | .adcAbsY _ => 0x79
  | .ply => 0x7A
  | .tdc => 0x7B
  | .jmpXInd _ => 0x7C
  | .adcAbsX _ => 0x7D
  | .rorAbsX _ => 0x7E
  | .bra _ => 0x80
  | .brl _ => 0x82
  | .txa => 0x8A
  | .bcc _ => 0x90
  | .tya => 0x98
  | .txs => 0x9A
  | .txy => 0x9B
  | .tay => 0xA8
  | .tax => 0xAA
  | .bcs _ => 0xB0
  | .tsx => 0xBA
  | .tyx => 0xBB
  | .repImm8 _ => 0xC2
  | .wai => 0xCB
  | .bne _ => 0xD0
  | .peiInd _ _ => 0xD4
  | .phx => 0xDA
  | .stp => 0xDB
  | .sepImm8 _ => 0xE2
  | .tba => 0xEB
  | .beq _ => 0xF0
  | .peaAbs _ => 0xF4
  | .plx => 0xFA
  | .jsrXInd _ => 0xFC

/-- The operand bytes of an instruction, in rising address order (30_encoding.md R61, R62, R64). -/
def Instr.operands : Instr → List Byte
  | .adcImm8 v | .adcSR v | .adcSRIY v | .repImm8 v | .sepImm8 v => toBytes endian 1 v.toNat
  | .adcImm16 v | .bpl v | .bmi v | .bvc v | .perRel v | .bvs v
  | .bra v | .brl v | .bcc v | .bcs v | .bne v | .beq v => toBytes endian 2 v.toNat
  | .adcImm32 v => toBytes endian 4 v.toNat
  | .adcImm64 v x | .jmpInd v x | .peiInd v x => toBytes endian 8 v.toNat ++ leBytes 8 x.toNat
  | .tsbAbs f | .aslAbs f | .trbAbs f | .aslAbsX f | .jsrAbs f | .rolAbs f
  | .rolAbsX f | .jmpAbs f | .lsrAbs f | .lsrAbsX f | .adcAbs f | .rorAbs f
  | .adcAbsY f | .jmpXInd f | .adcAbsX f | .rorAbsX f | .peaAbs f | .jsrXInd f => leBytes 16 f.toNat
  | .cop size op words => size :: op :: bytesOfWords endian words
  | .brk | .php | .aslA | .tas | .plp | .rolA | .tsa | .mvp | .pha | .lsrA | .mvn | .phy
  | .tcd | .rts | .pla | .rorA | .ply | .tdc | .txa | .tya | .txs | .txy | .tay | .tax
  | .tsx | .tyx | .wai | .phx | .stp | .tba | .plx => []

/-- The encoder: the opcode byte, then the operand bytes (30_encoding.md R60). -/
def encode (i : Instr) : List Byte := i.opcode :: i.operands

/-- The number of operand bytes of a mode (40_addressing_modes.md R82). -/
def Mode.operandBytes : Mode → Nat
  | .impl | .acc => 0
  | .imm8 | .sr | .srIY => 1
  | .imm16 | .rel => 2
  | .imm32 => 4
  | .imm64 | .abs | .absX | .absY | .absInd | .absXInd => 16

/-- How many bytes an instruction whose first two bytes are `b` and `b1` has: 1 plus the operand bytes of the mode, for COP
`3 + 2*size`, and 1 for an unassigned byte (30_encoding.md R60, R64). -/
def lengthFrom (b b1 : Byte) : Nat :=
  match opcodeMap.lookup b with
  | some e => if e.handler = .cop then 3 + 2 * b1.toNat else 1 + e.mode.operandBytes
  | none => 1

/-- The bytes of the instruction whose bits are `w`, numbered as the opcode table numbers them: the opcode byte is bits 7 to 0, each
later byte counts on, and every bit from `nbits` on is 0. -/
def tableBytes (nbits w : Nat) : List Byte :=
  let v := w % 2 ^ nbits
  leBytes (lengthFrom (BitVec.ofNat 8 v) (BitVec.ofNat 8 (v / 256))) v

/-- The instruction the decoder reads from the bits `w` of an opcode-table row. -/
def decodeTableWord (nbits w : Nat) : Option Instr :=
  match decode (tableBytes nbits w) with
  | .ok (i, _) => some i
  | .error _ => none

end Sys2Proof
end

