-- ==== Sys2Proof/Machine/State.lean ====
section
/-! DEFINITION. The state of the core as plain data (10_state.md), the reset state, and the reasons a step can stop. -/

namespace Sys2Proof.Machine

/-- Memory behind the facade: (address, byte) pairs in the canonical form `Memory.wf` (Machine/Memory.lean); the spec's default
flat array of 2^64 bytes (20_memory.md R52, decision D29). -/
abbrev Memory := List Host.Cell

/-- The stop reason; the spec gives names and no numbers (10_state.md R21). -/
inductive StopReason where
  | running
  | coprocessor
  | wait
  | stop
  deriving DecidableEq, Repr

/-- A captured COP payload: `(size, opcode, words)` (10_state.md R22). -/
structure CopCapture where
  size   : Byte
  opcode : Byte
  words  : List Word
  deriving DecidableEq, Repr

/-- The eight flags of P by name (10_state.md R17). -/
inductive Flag where
  | carry
  | zero
  | interruptDisable
  | decimal
  | trap
  | parity
  | overflow
  | negative
  deriving DecidableEq, Repr

/-- `RESET_STATE`: the values `reset` gives the state the source leaves unspecified (00_scope.md R4, 10_state.md R26). -/
structure ResetState where
  a   : QWord
  b   : QWord
  x   : QWord
  y   : QWord
  sp  : QWord
  d   : QWord
  p   : Byte
  pc  : QWord
  tpc : QWord
  z   : List QWord
  deriving DecidableEq, Repr

/-- The state of one core and of the memory behind its facade. -/
structure State where
  a   : QWord              -- accumulator (10_state.md R10)
  b   : QWord              -- source of TBA only (R10)
  x   : QWord              -- index register (R10)
  y   : QWord              -- index register (R10)
  sp  : QWord              -- stack pointer (R10)
  d   : QWord              -- TCD and TDC only (R11)
  p   : Byte               -- flags (R17)
  pc  : QWord              -- program counter (R14)
  tpc : QWord              -- its shadow (R16)
  z   : List QWord         -- zero-cache, 128 entries (R20)
  stop : StopReason        -- controller state (R21)
  cop : Option CopCapture  -- COP capture buffer (R22)
  cycles : QWord           -- cycle counter (R23)
  interrupted : Bool       -- pending interrupt (R24)
  trace : Bool             -- tracing enabled (R25)
  mem : Memory             -- bytes behind the facade (20_memory.md R40, R52)
  illegal : List (Byte × QWord)  -- the record of IllegalOpcode faults, oldest first (60_exceptions.md R220; log 9)
  deriving DecidableEq, Repr

/-- Reasons a step ends in a fault. -/
inductive Fault where
  /-- Raised by `step` when the byte fetched at `addr` is unassigned (60_exceptions.md R220, decision D4). Safe: the run is
  unusable in a claim from there on. The state the halted core is left in is `State.haltIllegal`. -/
  | illegalOpcode (byte : Byte) (addr : QWord)
  deriving DecidableEq, Repr

/-- Reasons the model gives no meaning. -/
inductive Refusal where
  /-- Raised by an arm of `exec` for an instruction without a meaning; no arm does. Safe. -/
  | notModelled (mnemonic : String)
  /-- Raised by `step` if a fetch took fewer bytes than its instruction has; a fetch takes as many as the opcode asks for, so it
  never happens (Laws/Step.lean, `fetchInstr_not_truncated`). Safe. -/
  | truncatedFetch
  /-- Raised by `facadeStep`, never by `step`, for an opcode map that breaks 30_encoding.md R66 ("refuse an ill-formed one"). Safe. -/
  | illFormedOpcodeMap
  deriving DecidableEq, Repr

/-- The state `reset(t)` leaves, for a given `RESET_STATE` and memory (10_state.md R26, 70_reset_and_hazards.md R240, R241). -/
def State.ofReset (rs : ResetState) (t : Bool) (mem : Memory) : State where
  a := rs.a
  b := rs.b
  x := rs.x
  y := rs.y
  sp := rs.sp
  d := rs.d
  p := rs.p
  pc := rs.pc
  tpc := rs.tpc
  z := rs.z
  stop := .running
  cop := none
  cycles := 0
  interrupted := false
  trace := t
  mem := mem
  illegal := []

/-- The `RESET_STATE` of `State.reset`: zero in every register, DESIGN CHOICE, unsafe (log 1): the spec gives no value. -/
def ResetState.zero : ResetState where
  a := 0
  b := 0
  x := 0
  y := 0
  sp := 0
  d := 0
  p := 0
  pc := 0
  tpc := 0
  z := List.replicate 128 0

/-- The machine right after `reset(false)`, with no byte of memory listed (logs 1, 2, 3). -/
def State.reset : State := State.ofReset ResetState.zero false []

end Sys2Proof.Machine
end

