-- ==== Sys2Proof/Machine/Flags.lean ====
section
/-! DEFINITION. The flags register: reading, writing and computing flags (10_state.md R17, R18). -/

namespace Sys2Proof.Machine

/-- The bit of P that holds a flag (10_state.md R17, decision D8; log 18). -/
def Flag.bit : Flag → Nat
  | .carry => 0
  | .zero => 1
  | .interruptDisable => 2
  | .decimal => 3
  | .trap => 4
  | .parity => 5
  | .overflow => 6
  | .negative => 7

/-- P with one bit replaced. -/
def setFlagBit (p : Byte) (f : Flag) (v : Bool) : Byte :=
  if v then p ||| (1#8 <<< f.bit) else p &&& ~~~(1#8 <<< f.bit)

/-- A flag of the state. -/
def State.flag (s : State) (f : Flag) : Bool := s.p.getLsbD f.bit

/-- The state with one flag replaced. -/
def State.setFlag (s : State) (f : Flag) (v : Bool) : State := { s with p := setFlagBit s.p f v }

/-- `setNZ_64` (10_state.md R18). -/
def State.setNZ64 (s : State) (v : QWord) : State := (s.setFlag .negative v.msb).setFlag .zero (v == 0)

/-- `setNZ_16` (10_state.md R18). -/
def State.setNZ16 (s : State) (v : Word) : State := (s.setFlag .negative v.msb).setFlag .zero (v == 0)

/-- The raw sum of ADC, a natural number that is not reduced (41_adc.md R100). -/
def adcRaw (a m : QWord) (c : Bool) : Nat := a.toNat + m.toNat + c.toNat

/-- ADC's carry out: the raw sum reaches 2^64 (41_adc.md R100, 90_conflicts.md C1). -/
def adcCarry (a m : QWord) (c : Bool) : Bool := decide (2 ^ 64 ≤ adcRaw a m c)

/-- ADC's overflow: the operands share a sign and the uncorrected result's sign differs from it (41_adc.md R100). -/
def adcOverflow (a m r : QWord) : Bool := a.msb == m.msb && r.msb != a.msb

/-- The decimal correction of nibble `i`: a nibble above 9 has 6 added at its place (41_adc.md R100). -/
def decimalNibble (r : QWord) (i : Nat) : QWord :=
  if 9 < r.toNat / 16 ^ i % 16 then r + BitVec.ofNat 64 (6 * 16 ^ i) else r

/-- The decimal correction of all sixteen nibbles, low to high, each test seeing the earlier additions (41_adc.md R100,
decision D16, 90_conflicts.md C9). -/
def decimalCorrect (r : QWord) : QWord := (List.range 16).foldl decimalNibble r

/-- The word functions of the shifts (48_shifts.md): the result. -/
def aslWord (w : Word) : Word := w <<< 1

/-- 48_shifts.md: bit 15 becomes 0. -/
def lsrWord (w : Word) : Word := w >>> 1

/-- 48_shifts.md: the carry becomes bit 0. -/
def rolWord (w : Word) (c : Bool) : Word := (w <<< 1) ||| (BitVec.ofBool c).setWidth 16

/-- 48_shifts.md: the carry becomes bit 15. -/
def rorWord (w : Word) (c : Bool) : Word := (w >>> 1) ||| ((BitVec.ofBool c).setWidth 16 <<< 15)

/-- The carry out of ASL and ROL: bit 15 (48_shifts.md). -/
def shiftLeftCarry (w : Word) : Bool := w.getLsbD 15

/-- The carry out of LSR and ROR: bit 0 (48_shifts.md). -/
def shiftRightCarry (w : Word) : Bool := w.getLsbD 0

end Sys2Proof.Machine
end

