-- ==== Sys2Proof/Machine/Memory.lean ====
section
/-! DEFINITION. Memory as a canonical list of cells: reading and writing bytes and runs of bytes (20_memory.md). -/

namespace Sys2Proof.Machine

/-- What a byte of memory that nothing has written reads as: DESIGN CHOICE, unsafe (log 3). The spec gives the initial content to
the host (20_memory.md R52, 93_implementation_defined.md U15). -/
def unlistedByte : Byte := 0

/-- The byte at an address. -/
def Memory.get (m : Memory) (a : Nat) : Byte :=
  match m.find? (fun c => c.1 == a) with
  | some c => c.2
  | none => unlistedByte

/-- Put a cell before the first cell of a higher address. -/
def Memory.insertCell (c : Host.Cell) : Memory → Memory
  | [] => [c]
  | k :: r => if c.1 < k.1 then c :: k :: r else k :: Memory.insertCell c r

/-- The memory with the byte at an address replaced; writing what an unlisted address reads as removes the cell. -/
def Memory.set (m : Memory) (a : Nat) (v : Byte) : Memory :=
  let rest := m.filter (fun c => c.1 != a)
  if v = unlistedByte then rest else Memory.insertCell (a, v) rest

/-- Addresses strictly rising from `lo`. -/
def Memory.rising : Nat → Memory → Bool
  | _, [] => true
  | lo, c :: r => decide (lo ≤ c.1) && Memory.rising (c.1 + 1) r

/-- The canonical form: addresses strictly rising and below 2^64, and no cell equal to what an unlisted address reads as. -/
def Memory.wf (m : Memory) : Bool :=
  Memory.rising 0 m && m.all (fun c => decide (c.1 < 2 ^ 64) && c.2 != unlistedByte)

/-- The `n` bytes at `a`, `a + 1`, … modulo 2^64 (20_memory.md R47). -/
def Memory.readBytes (m : Memory) : Nat → QWord → List Byte
  | 0, _ => []
  | n + 1, a => m.get a.toNat :: Memory.readBytes m n (a + 1)

/-- Bytes written at `a`, `a + 1`, … modulo 2^64 (20_memory.md R47). -/
def Memory.writeBytes (m : Memory) : QWord → List Byte → Memory
  | _, [] => m
  | a, v :: vs => Memory.writeBytes (m.set a.toNat v) (a + 1) vs

/-- `MemRead(addr, n)` as a number: one access of `n` bytes, at any alignment, in the facade's byte order (20_memory.md R41, R45, R46). -/
def Memory.read (m : Memory) (a : QWord) (n : Nat) (order : Endian := endian) : Nat := ofBytes order (m.readBytes n a)

/-- `MemWrite(addr, n, v)`: one access of `n` bytes, at any alignment, in the facade's byte order (20_memory.md R42, R45, R46). -/
def Memory.write (m : Memory) (a : QWord) (n v : Nat) (order : Endian := endian) : Memory := m.writeBytes a (toBytes order n v)

end Sys2Proof.Machine
end

