-- ==== Sys2Proof/Machine/Ops.lean ====
section
/-! DEFINITION. Named operations on the state: registers, memory accesses, the fetch, the stack, entering a trap and halting. -/

namespace Sys2Proof.Machine

/-! ### Registers -/

/-- `A <- v`. -/
def State.setA (s : State) (v : QWord) : State := { s with a := v }

/-- `X <- v`. -/
def State.setX (s : State) (v : QWord) : State := { s with x := v }

/-- `Y <- v`. -/
def State.setY (s : State) (v : QWord) : State := { s with y := v }

/-- `SP <- v`. -/
def State.setSP (s : State) (v : QWord) : State := { s with sp := v }

/-- `D <- v`. -/
def State.setD (s : State) (v : QWord) : State := { s with d := v }

/-- `P <- v`, all eight flags. -/
def State.setP (s : State) (v : Byte) : State := { s with p := v }

/-- `pc <- v`. -/
def State.setPC (s : State) (v : QWord) : State := { s with pc := v }

/-- `stop <- r`. -/
def State.setStop (s : State) (r : StopReason) : State := { s with stop := r }

/-- `cop <- c`. -/
def State.setCop (s : State) (c : Option CopCapture) : State := { s with cop := c }

/-- `interrupted <- v`. -/
def State.setInterrupted (s : State) (v : Bool) : State := { s with interrupted := v }

/-- `A[15:0] <- v` (10_state.md R13). -/
def State.setALow (s : State) (v : Word) : State := s.setA (mergeLow s.a v)

/-- `X[15:0] <- v` (10_state.md R13). -/
def State.setXLow (s : State) (v : Word) : State := s.setX (mergeLow s.x v)

/-- `Y[15:0] <- v` (10_state.md R13). -/
def State.setYLow (s : State) (v : Word) : State := s.setY (mergeLow s.y v)

/-- `cycles <- cycles + n`, modulo 2^64 (10_state.md R23). -/
def State.charge (s : State) (n : Nat) : State := { s with cycles := s.cycles + BitVec.ofNat 64 n }

/-- `Z[i]`, entry `i mod 128` (10_state.md R20). No instruction of the map reads it (decision D28). -/
def State.zGet (s : State) (i : Nat) : QWord := s.z.getD (i % 128) 0

/-- `Z[i] <- v`, entry `i mod 128` (10_state.md R20). No instruction of the map writes it (decision D28). -/
def State.zSet (s : State) (i : Nat) (v : QWord) : State := { s with z := s.z.set (i % 128) v }

/-! ### Memory accesses

Those of more than one byte take the facade's byte order, `endian` unless it is given (00_scope.md R4, 20_memory.md R45). -/

/-- `MemRead(a, 1)` (20_memory.md R41). -/
def State.read8 (s : State) (a : QWord) : Byte := BitVec.ofNat 8 (s.mem.read a 1)

/-- `MemRead(a, 2)` (20_memory.md R41). -/
def State.read16 (s : State) (a : QWord) (order : Endian := endian) : Word := BitVec.ofNat 16 (s.mem.read a 2 order)

/-- `MemRead(a, 4)` (20_memory.md R41). -/
def State.read32 (s : State) (a : QWord) (order : Endian := endian) : DWord := BitVec.ofNat 32 (s.mem.read a 4 order)

/-- `MemRead(a, 8)` (20_memory.md R41). -/
def State.read64 (s : State) (a : QWord) (order : Endian := endian) : QWord := BitVec.ofNat 64 (s.mem.read a 8 order)

/-- The state with its memory replaced. -/
def State.setMem (s : State) (m : Memory) : State := { s with mem := m }

/-- `MemWrite(a, 1, v)` (20_memory.md R42). -/
def State.write8 (s : State) (a : QWord) (v : Byte) : State := s.setMem (s.mem.write a 1 v.toNat)

/-- `MemWrite(a, 2, v)` (20_memory.md R42). -/
def State.write16 (s : State) (a : QWord) (v : Word) (order : Endian := endian) : State :=
  s.setMem (s.mem.write a 2 v.toNat order)

/-- `MemWrite(a, 8, v)` (20_memory.md R42). -/
def State.write64 (s : State) (a : QWord) (v : QWord) (order : Endian := endian) : State :=
  s.setMem (s.mem.write a 8 v.toNat order)

/-! ### The fetch -/

/-- What every executed step does before the resolver: `tpc <- pc`, `pc` past the opcode byte, `FETCH_CYC` charged
(40_addressing_modes.md R80, decisions D25, D27). -/
def State.fetched (s : State) : State :=
  { s with tpc := s.pc, pc := s.pc + 1, cycles := s.cycles + BitVec.ofNat 64 Config.fetchCyc }

/-! ### The stack (46_stack.md R165, R166) -/

/-- `push_1(v)`. -/
def State.push8 (s : State) (v : Byte) : State := (s.write8 s.sp v).setSP (s.sp - 1)

/-- `push_2(v)`. -/
def State.push16 (s : State) (v : Word) (order : Endian := endian) : State := (s.write16 s.sp v order).setSP (s.sp - 2)

/-- The byte `pull_1()` returns: the one at SP + 1. -/
def State.pull8Value (s : State) : Byte := s.read8 (s.sp + 1)

/-- The state after `pull_1()`. -/
def State.pull8 (s : State) : State := s.setSP (s.sp + 1)

/-- The word `pull_2()` returns: the one at SP + 2. -/
def State.pull16Value (s : State) (order : Endian := endian) : Word := s.read16 (s.sp + 2) order

/-- The state after `pull_2()`. -/
def State.pull16 (s : State) : State := s.setSP (s.sp + 2)

/-! ### Traps and halts -/

/-- `BRK_VECTOR` (00_scope.md R3, 20_memory.md R51). -/
def brkVector : QWord := 0xFFE6

/-- Taking the one vectored trap: push the return address word, push P, set InterruptDisable, clear Decimal, load `pc` from the
vector (43_traps_halts.md R130, 60_exceptions.md R224). `s.pc` is the return address. -/
def State.enterTrap (s : State) (order : Endian := endian) : State :=
  let s1 := (s.push16 (lowWord s.pc) order).push8 s.p
  let s2 := (s1.setFlag .interruptDisable true).setFlag .decimal false
  s2.setPC ((s2.read16 brkVector order).setWidth 64)

/-- The return the spec derives from PLP then RTS: pull P, then pull the return word into `pc` (60_exceptions.md R227). No
instruction does both; there is no return-from-interrupt (91_not_in_source.md N6). -/
def State.leaveTrap (s : State) (order : Endian := endian) : State :=
  let s1 := s.pull8.setP s.pull8Value
  s1.pull16.setPC ((s1.pull16Value order).setWidth 64)

/-- Taking the coprocessor trap: capture the payload, `pc` past it, stop with COPROCESSOR (43_traps_halts.md R131,
60_exceptions.md R225). `ea` is the address of the size byte. -/
def State.enterCop (s : State) (ea : QWord) (c : CopCapture) : State :=
  ((s.setPC (ea + 2 + BitVec.ofNat 64 (2 * c.size.toNat))).setCop (some c)).setStop .coprocessor

/-- The state the halted core is left in by `IllegalOpcode(byte, pc)`: fetched, stopped with STOP, the event recorded
(60_exceptions.md R220). -/
def State.haltIllegal (s : State) (byte : Byte) : State :=
  { s.fetched with stop := .stop, illegal := s.illegal ++ [(byte, s.pc)] }

end Sys2Proof.Machine
end

