-- ==== Sys2Proof/Machine/Operands.lean ====
section
/-! DEFINITION. The addressing-mode resolvers (40_addressing_modes.md R82 to R92). Each `ea…` is the effective address on a state whose
`pc` is the first operand byte (`pc1`); `State.resolved` is the resolver's other effect, the same shape for every mode. -/

namespace Sys2Proof.Machine

/-- `REL_BASE`, 0 in this spec (40_addressing_modes.md R90, decision D11; log 6). -/
def relBase : RelBase := .operandField

/-- `REL_BASE` as a number. -/
def relOffset : RelBase → QWord
  | .operandField => 0
  | .nextInstruction => 2

/-- `BASE_CYC(mode)` (40_addressing_modes.md R82). -/
def baseCycles : Mode → Nat
  | .impl | .acc | .imm8 => 0
  | .imm16 | .imm32 | .imm64 | .rel | .sr => 1
  | .abs | .absX | .absY => 2
  | .srIY => 3
  | .absInd | .absXInd => 4

/-- `pc` past the operand bytes and the base cycles charged (40_addressing_modes.md R81, R82). -/
def State.resolved (s : State) (m : Mode) : State :=
  (s.setPC (s.pc + BitVec.ofNat 64 m.operandBytes)).charge (baseCycles m)

/-- Absolute `a` and the immediates: the operand field itself (40_addressing_modes.md R83, R89). -/
def eaField (s : State) : QWord := s.pc

/-- Absolute,X (40_addressing_modes.md R84, decision D40). -/
def eaAbsX (s : State) : QWord := s.pc + s.x

/-- Absolute,Y (40_addressing_modes.md R85, decision D40). -/
def eaAbsY (s : State) : QWord := s.pc + s.y

/-- Absolute Indirect with the pointer `p` of the operand field (40_addressing_modes.md R86). -/
def eaAbsInd (p : QWord) : QWord := p

/-- Absolute Indexed Indirect: the pointer at `pc1 + X` (40_addressing_modes.md R87). -/
def eaAbsXInd (s : State) (order : Endian := endian) : QWord := s.read64 (s.pc + s.x) order

/-- Relative with displacement `d` (40_addressing_modes.md R90). -/
def eaRel (base : RelBase) (d : Word) (s : State) : QWord := s.pc + relOffset base + sext16 d

/-- Stack-Relative with displacement `d` (40_addressing_modes.md R91, decision D12). -/
def eaSR (d : Byte) (s : State) : QWord := s.sp + sext8 d

/-- Stack-Relative Indirect Indexed with displacement `d` (40_addressing_modes.md R92). -/
def eaSRIY (d : Byte) (s : State) (order : Endian := endian) : QWord := s.read64 (s.sp + sext8 d) order + s.y

end Sys2Proof.Machine
end

