-- ==== Sys2Proof/Machine/Adc.lean ====
section
/-! DEFINITION. ADC in its nine forms (41_adc.md). -/

namespace Sys2Proof.Machine

/-- The ADC handler on its zero-extended operand `m`: carry and overflow from the uncorrected sum, then the decimal correction, then N
and Z from the corrected value (41_adc.md R100). -/
def doAdc (m : QWord) (s : State) : State :=
  let c := s.flag .carry
  let r := BitVec.ofNat 64 (adcRaw s.a m c)
  let v := if s.flag .decimal then decimalCorrect r else r
  ((((s.setFlag .carry (adcCarry s.a m c)).setFlag .overflow (adcOverflow s.a m r)).setA v).setNZ64 v).charge (Config.hcyc .adc)

/-- ADC.b #i (41_adc.md R101). -/
def execAdcImm8 (i : Byte) (s : State) : Host.Outcome State Fault Refusal :=
  .next (doAdc (i.setWidth 64) (s.fetched.resolved .imm8))

/-- ADC.w #i (41_adc.md R102). -/
def execAdcImm16 (i : Word) (s : State) : Host.Outcome State Fault Refusal :=
  .next (doAdc (i.setWidth 64) (s.fetched.resolved .imm16))

/-- ADC.d #i (41_adc.md R103). -/
def execAdcImm32 (i : DWord) (s : State) : Host.Outcome State Fault Refusal :=
  .next (doAdc (i.setWidth 64) (s.fetched.resolved .imm32))

/-- ADC.q #i (41_adc.md R104). The trailing bytes are read by nothing (30_encoding.md R61). -/
def execAdcImm64 (i : QWord) (_x : QWord) (s : State) : Host.Outcome State Fault Refusal :=
  .next (doAdc i (s.fetched.resolved .imm64))

/-- ADC.q a: the operand is read in memory, at the operand field (41_adc.md R104). -/
def execAdcAbs (_f : Field) (s : State) : Host.Outcome State Fault Refusal :=
  .next (doAdc (s.read64 (eaField s.fetched)) (s.fetched.resolved .abs))

/-- ADC.q a,X (41_adc.md R104). -/
def execAdcAbsX (_f : Field) (s : State) : Host.Outcome State Fault Refusal :=
  .next (doAdc (s.read64 (eaAbsX s.fetched)) (s.fetched.resolved .absX))

/-- ADC.q a,Y (41_adc.md R104). -/
def execAdcAbsY (_f : Field) (s : State) : Host.Outcome State Fault Refusal :=
  .next (doAdc (s.read64 (eaAbsY s.fetched)) (s.fetched.resolved .absY))

/-- ADC.q d,S (41_adc.md R104). -/
def execAdcSR (d : Byte) (s : State) : Host.Outcome State Fault Refusal :=
  .next (doAdc (s.read64 (eaSR d s.fetched)) (s.fetched.resolved .sr))

/-- ADC.q (d,S),Y (41_adc.md R104). -/
def execAdcSRIY (d : Byte) (s : State) : Host.Outcome State Fault Refusal :=
  .next (doAdc (s.read64 (eaSRIY d s.fetched)) (s.fetched.resolved .srIY))

end Sys2Proof.Machine
end

