-- ==== Sys2Proof/Machine/BlockMove.lean ====
section
/-! DEFINITION. MVN and MVP, the control structure only (44_block_move.md). -/

namespace Sys2Proof.Machine

/-- The count step of the block moves: A[15:0] down by one, and `pc` back to this instruction unless it underflowed to 0xFFFF. No
data moves (44_block_move.md R140, decision D23; log 17). -/
def blockStep (s : State) : State :=
  let c := lowWord s.a - 1
  let s1 := s.setALow c
  if c = 0xFFFF then s1 else s1.setPC s1.tpc

/-- The MVN handler (44_block_move.md R140). -/
def doMvn (s : State) : State := (blockStep s).charge (Config.hcyc .mvn)

/-- The MVP handler (44_block_move.md R141). -/
def doMvp (s : State) : State := (blockStep s).charge (Config.hcyc .mvp)

/-- MVN (44_block_move.md R140). -/
def execMvn (s : State) : Host.Outcome State Fault Refusal :=
  .next (doMvn (s.fetched.resolved .impl))

/-- MVP (44_block_move.md R141). -/
def execMvp (s : State) : Host.Outcome State Fault Refusal :=
  .next (doMvp (s.fetched.resolved .impl))

end Sys2Proof.Machine
end

