-- ==== Sys2Proof/Machine/Control.lean ====
section
/-! DEFINITION. The branches, JMP, JSR and RTS (42_branches_jumps.md). -/

namespace Sys2Proof.Machine

/-- The handler of every branch (42_branches_jumps.md R110). -/
def doBranch (cond : Bool) (ea : QWord) (s : State) : State :=
  if cond then (s.setPC (trunc16 ea)).charge 3 else s.charge 2

/-- The JMP handler (42_branches_jumps.md R121). -/
def doJmp (ea : QWord) (s : State) : State := (s.setPC (trunc16 ea)).charge (Config.hcyc .jmp)

/-- The JSR handler: `pc` is the address of the next instruction (42_branches_jumps.md R122, decision D18). -/
def doJsr (ea : QWord) (s : State) (order : Endian := endian) : State :=
  ((s.push16 (lowWord s.pc) order).setPC (trunc16 ea)).charge (Config.hcyc .jsr)

/-- The RTS handler (42_branches_jumps.md R123, decision D18). -/
def doRts (s : State) (order : Endian := endian) : State :=
  (s.pull16.setPC ((s.pull16Value order).setWidth 64)).charge (Config.hcyc .rts)

/-- BCC (42_branches_jumps.md R111). -/
def execBcc (d : Word) (s : State) : Host.Outcome State Fault Refusal :=
  .next (doBranch (!s.flag .carry) (eaRel relBase d s.fetched) (s.fetched.resolved .rel))

/-- BCS (42_branches_jumps.md R112). -/
def execBcs (d : Word) (s : State) : Host.Outcome State Fault Refusal :=
  .next (doBranch (s.flag .carry) (eaRel relBase d s.fetched) (s.fetched.resolved .rel))

/-- BEQ (42_branches_jumps.md R113). -/
def execBeq (d : Word) (s : State) : Host.Outcome State Fault Refusal :=
  .next (doBranch (s.flag .zero) (eaRel relBase d s.fetched) (s.fetched.resolved .rel))

/-- BNE (42_branches_jumps.md R114). -/
def execBne (d : Word) (s : State) : Host.Outcome State Fault Refusal :=
  .next (doBranch (!s.flag .zero) (eaRel relBase d s.fetched) (s.fetched.resolved .rel))

/-- BMI (42_branches_jumps.md R115). -/
def execBmi (d : Word) (s : State) : Host.Outcome State Fault Refusal :=
  .next (doBranch (s.flag .negative) (eaRel relBase d s.fetched) (s.fetched.resolved .rel))

/-- BPL (42_branches_jumps.md R116). -/
def execBpl (d : Word) (s : State) : Host.Outcome State Fault Refusal :=
  .next (doBranch (!s.flag .negative) (eaRel relBase d s.fetched) (s.fetched.resolved .rel))

/-- BVC (42_branches_jumps.md R117). -/
def execBvc (d : Word) (s : State) : Host.Outcome State Fault Refusal :=
  .next (doBranch (!s.flag .overflow) (eaRel relBase d s.fetched) (s.fetched.resolved .rel))

/-- BVS (42_branches_jumps.md R118). -/
def execBvs (d : Word) (s : State) : Host.Outcome State Fault Refusal :=
  .next (doBranch (s.flag .overflow) (eaRel relBase d s.fetched) (s.fetched.resolved .rel))

/-- BRA (42_branches_jumps.md R119). -/
def execBra (d : Word) (s : State) : Host.Outcome State Fault Refusal :=
  .next (doBranch true (eaRel relBase d s.fetched) (s.fetched.resolved .rel))

/-- BRL (42_branches_jumps.md R120). -/
def execBrl (d : Word) (s : State) : Host.Outcome State Fault Refusal :=
  .next (doBranch true (eaRel relBase d s.fetched) (s.fetched.resolved .rel))

/-- JMP a: control enters the operand field (42_branches_jumps.md R121). -/
def execJmpAbs (_f : Field) (s : State) : Host.Outcome State Fault Refusal :=
  .next (doJmp (eaField s.fetched) (s.fetched.resolved .abs))

/-- JMP (a) (42_branches_jumps.md R121). -/
def execJmpInd (p : QWord) (_x : QWord) (s : State) : Host.Outcome State Fault Refusal :=
  .next (doJmp (eaAbsInd p) (s.fetched.resolved .absInd))

/-- JMP (a,X): the pointer is read in memory (42_branches_jumps.md R121). -/
def execJmpXInd (_f : Field) (s : State) : Host.Outcome State Fault Refusal :=
  .next (doJmp (eaAbsXInd s.fetched) (s.fetched.resolved .absXInd))

/-- JSR a (42_branches_jumps.md R122). -/
def execJsrAbs (_f : Field) (s : State) : Host.Outcome State Fault Refusal :=
  .next (doJsr (eaField s.fetched) (s.fetched.resolved .abs))

/-- JSR (a,X): the pointer is read in memory (42_branches_jumps.md R122). -/
def execJsrXInd (_f : Field) (s : State) : Host.Outcome State Fault Refusal :=
  .next (doJsr (eaAbsXInd s.fetched) (s.fetched.resolved .absXInd))

/-- RTS (42_branches_jumps.md R123). -/
def execRts (s : State) : Host.Outcome State Fault Refusal :=
  .next (doRts (s.fetched.resolved .impl))

end Sys2Proof.Machine
end

