-- ==== Sys2Proof/Machine/FlagBits.lean ====
section
/-! DEFINITION. REP, SEP, TRB and TSB (47_flag_bit_ops.md). -/

namespace Sys2Proof.Machine

/-- The REP handler on its mask (47_flag_bit_ops.md R185). -/
def doRep (m : Byte) (s : State) : State := (s.setP (s.p &&& ~~~m)).charge (Config.hcyc .rep)

/-- The SEP handler on its mask (47_flag_bit_ops.md R186). -/
def doSep (m : Byte) (s : State) : State := (s.setP (s.p ||| m)).charge (Config.hcyc .sep)

/-- The TRB handler: Z from the qword read, then the masked bits cleared in memory (47_flag_bit_ops.md R187, decision D39). -/
def doTrb (ea : QWord) (s : State) (order : Endian := endian) : State :=
  let m := s.read64 ea order
  ((s.setFlag .zero (s.a &&& m == 0)).write64 ea (m &&& ~~~s.a) order).charge (Config.hcyc .trb)

/-- The TSB handler: Z from the qword read, then the masked bits set in memory (47_flag_bit_ops.md R188, decision D39). -/
def doTsb (ea : QWord) (s : State) (order : Endian := endian) : State :=
  let m := s.read64 ea order
  ((s.setFlag .zero (s.a &&& m == 0)).write64 ea (m ||| s.a) order).charge (Config.hcyc .tsb)

/-- REP #i (47_flag_bit_ops.md R185). -/
def execRepImm8 (i : Byte) (s : State) : Host.Outcome State Fault Refusal :=
  .next (doRep i (s.fetched.resolved .imm8))

/-- SEP #i (47_flag_bit_ops.md R186). -/
def execSepImm8 (i : Byte) (s : State) : Host.Outcome State Fault Refusal :=
  .next (doSep i (s.fetched.resolved .imm8))

/-- TRB a: the qword is the operand field in memory (47_flag_bit_ops.md R187). -/
def execTrbAbs (_f : Field) (s : State) : Host.Outcome State Fault Refusal :=
  .next (doTrb (eaField s.fetched) (s.fetched.resolved .abs))

/-- TSB a: the qword is the operand field in memory (47_flag_bit_ops.md R188). -/
def execTsbAbs (_f : Field) (s : State) : Host.Outcome State Fault Refusal :=
  .next (doTsb (eaField s.fetched) (s.fetched.resolved .abs))

end Sys2Proof.Machine
end

