-- ==== Sys2Proof/Machine/Shifts.lean ====
section
/-! DEFINITION. ASL, LSR, ROL and ROR, memory and accumulator forms (48_shifts.md). -/

namespace Sys2Proof.Machine

/-- What every memory shift does with the word read at `ea`: its carry out, its result stored, N and Z at 16 bits (48_shifts.md,
decision D17). -/
def shiftMem (ea : QWord) (c : Bool) (r : Word) (s : State) (order : Endian := endian) : State :=
  ((s.setFlag .carry c).write16 ea r order).setNZ16 r

/-- What every accumulator shift does with A[15:0] (48_shifts.md section 2). -/
def shiftAcc (c : Bool) (r : Word) (s : State) : State :=
  ((s.setFlag .carry c).setALow r).setNZ16 r

/-- The ASL handler, memory form (48_shifts.md R195). -/
def doAsl (ea : QWord) (s : State) (order : Endian := endian) : State :=
  let w := s.read16 ea order
  (shiftMem ea (shiftLeftCarry w) (aslWord w) s order).charge (Config.hcyc .asl)

/-- The ASL A handler (48_shifts.md R199). -/
def doAslA (s : State) : State :=
  let w := lowWord s.a
  (shiftAcc (shiftLeftCarry w) (aslWord w) s).charge (Config.hcyc .aslA)

/-- The LSR handler, memory form (48_shifts.md R196). -/
def doLsr (ea : QWord) (s : State) (order : Endian := endian) : State :=
  let w := s.read16 ea order
  (shiftMem ea (shiftRightCarry w) (lsrWord w) s order).charge (Config.hcyc .lsr)

/-- The LSR A handler (48_shifts.md R200). -/
def doLsrA (s : State) : State :=
  let w := lowWord s.a
  (shiftAcc (shiftRightCarry w) (lsrWord w) s).charge (Config.hcyc .lsrA)

/-- The ROL handler, memory form (48_shifts.md R197). -/
def doRol (ea : QWord) (s : State) (order : Endian := endian) : State :=
  let w := s.read16 ea order
  (shiftMem ea (shiftLeftCarry w) (rolWord w (s.flag .carry)) s order).charge (Config.hcyc .rol)

/-- The ROL A handler (48_shifts.md R201). -/
def doRolA (s : State) : State :=
  let w := lowWord s.a
  (shiftAcc (shiftLeftCarry w) (rolWord w (s.flag .carry)) s).charge (Config.hcyc .rolA)

/-- The ROR handler, memory form (48_shifts.md R198). -/
def doRor (ea : QWord) (s : State) (order : Endian := endian) : State :=
  let w := s.read16 ea order
  (shiftMem ea (shiftRightCarry w) (rorWord w (s.flag .carry)) s order).charge (Config.hcyc .ror)

/-- The ROR A handler (48_shifts.md R202). -/
def doRorA (s : State) : State :=
  let w := lowWord s.a
  (shiftAcc (shiftRightCarry w) (rorWord w (s.flag .carry)) s).charge (Config.hcyc .rorA)

/-- ASL a: the word is the operand field in memory (48_shifts.md R195). -/
def execAslAbs (_f : Field) (s : State) : Host.Outcome State Fault Refusal :=
  .next (doAsl (eaField s.fetched) (s.fetched.resolved .abs))

/-- ASL a,X (48_shifts.md R195). -/
def execAslAbsX (_f : Field) (s : State) : Host.Outcome State Fault Refusal :=
  .next (doAsl (eaAbsX s.fetched) (s.fetched.resolved .absX))

/-- ASL A (48_shifts.md R199). -/
def execAslA (s : State) : Host.Outcome State Fault Refusal :=
  .next (doAslA (s.fetched.resolved .acc))

/-- LSR a: the word is the operand field in memory (48_shifts.md R196). -/
def execLsrAbs (_f : Field) (s : State) : Host.Outcome State Fault Refusal :=
  .next (doLsr (eaField s.fetched) (s.fetched.resolved .abs))

/-- LSR a,X (48_shifts.md R196). -/
def execLsrAbsX (_f : Field) (s : State) : Host.Outcome State Fault Refusal :=
  .next (doLsr (eaAbsX s.fetched) (s.fetched.resolved .absX))

/-- LSR A (48_shifts.md R200). -/
def execLsrA (s : State) : Host.Outcome State Fault Refusal :=
  .next (doLsrA (s.fetched.resolved .acc))

/-- ROL a: the word is the operand field in memory (48_shifts.md R197). -/
def execRolAbs (_f : Field) (s : State) : Host.Outcome State Fault Refusal :=
  .next (doRol (eaField s.fetched) (s.fetched.resolved .abs))

/-- ROL a,X (48_shifts.md R197). -/
def execRolAbsX (_f : Field) (s : State) : Host.Outcome State Fault Refusal :=
  .next (doRol (eaAbsX s.fetched) (s.fetched.resolved .absX))

/-- ROL A (48_shifts.md R201). -/
def execRolA (s : State) : Host.Outcome State Fault Refusal :=
  .next (doRolA (s.fetched.resolved .acc))

/-- ROR a: the word is the operand field in memory (48_shifts.md R198). -/
def execRorAbs (_f : Field) (s : State) : Host.Outcome State Fault Refusal :=
  .next (doRor (eaField s.fetched) (s.fetched.resolved .abs))

/-- ROR a,X (48_shifts.md R198). -/
def execRorAbsX (_f : Field) (s : State) : Host.Outcome State Fault Refusal :=
  .next (doRor (eaAbsX s.fetched) (s.fetched.resolved .absX))

/-- ROR A (48_shifts.md R202). -/
def execRorA (s : State) : Host.Outcome State Fault Refusal :=
  .next (doRorA (s.fetched.resolved .acc))

end Sys2Proof.Machine
end

