-- ==== Sys2Proof/Machine/Stack.lean ====
section
/-! DEFINITION. The eleven stack handlers (46_stack.md). -/

namespace Sys2Proof.Machine

/-- The PHA handler (46_stack.md R167). -/
def doPha (s : State) (order : Endian := endian) : State := (s.push16 (lowWord s.a) order).charge (Config.hcyc .pha)

/-- The PHX handler (46_stack.md R168). -/
def doPhx (s : State) (order : Endian := endian) : State := (s.push16 (lowWord s.x) order).charge (Config.hcyc .phx)

/-- The PHY handler (46_stack.md R169). -/
def doPhy (s : State) (order : Endian := endian) : State := (s.push16 (lowWord s.y) order).charge (Config.hcyc .phy)

/-- The PLA handler (46_stack.md R170, decision D17). -/
def doPla (s : State) (order : Endian := endian) : State :=
  ((s.pull16.setALow (s.pull16Value order)).setNZ16 (s.pull16Value order)).charge (Config.hcyc .pla)

/-- The PLX handler (46_stack.md R171, decision D17). -/
def doPlx (s : State) (order : Endian := endian) : State :=
  ((s.pull16.setXLow (s.pull16Value order)).setNZ16 (s.pull16Value order)).charge (Config.hcyc .plx)

/-- The PLY handler (46_stack.md R172, decision D17). -/
def doPly (s : State) (order : Endian := endian) : State :=
  ((s.pull16.setYLow (s.pull16Value order)).setNZ16 (s.pull16Value order)).charge (Config.hcyc .ply)

/-- The PEA handler: push the word at `ea` (46_stack.md R173, decision D36). -/
def doPea (ea : QWord) (s : State) (order : Endian := endian) : State :=
  (s.push16 (s.read16 ea order) order).charge (Config.hcyc .pea)

/-- The PEI handler: push the word at `ea` (46_stack.md R174, decision D36). -/
def doPei (ea : QWord) (s : State) (order : Endian := endian) : State :=
  (s.push16 (s.read16 ea order) order).charge (Config.hcyc .pei)

/-- The PER handler: push the low word of `ea` itself (46_stack.md R175, decision D36). -/
def doPer (ea : QWord) (s : State) (order : Endian := endian) : State := (s.push16 (lowWord ea) order).charge (Config.hcyc .per)

/-- The PHP handler (46_stack.md R176, decision D14). -/
def doPhp (s : State) : State := (s.push8 s.p).charge (Config.hcyc .php)

/-- The PLP handler (46_stack.md R177, decision D14). -/
def doPlp (s : State) : State := (s.pull8.setP s.pull8Value).charge (Config.hcyc .plp)

/-- PHA (46_stack.md R167). -/
def execPha (s : State) : Host.Outcome State Fault Refusal :=
  .next (doPha (s.fetched.resolved .impl))

/-- PHX (46_stack.md R168). -/
def execPhx (s : State) : Host.Outcome State Fault Refusal :=
  .next (doPhx (s.fetched.resolved .impl))

/-- PHY (46_stack.md R169). -/
def execPhy (s : State) : Host.Outcome State Fault Refusal :=
  .next (doPhy (s.fetched.resolved .impl))

/-- PLA (46_stack.md R170). -/
def execPla (s : State) : Host.Outcome State Fault Refusal :=
  .next (doPla (s.fetched.resolved .impl))

/-- PLX (46_stack.md R171). -/
def execPlx (s : State) : Host.Outcome State Fault Refusal :=
  .next (doPlx (s.fetched.resolved .impl))

/-- PLY (46_stack.md R172). -/
def execPly (s : State) : Host.Outcome State Fault Refusal :=
  .next (doPly (s.fetched.resolved .impl))

/-- PEA a: the word is read in memory, at the operand field (46_stack.md R173). -/
def execPeaAbs (_f : Field) (s : State) : Host.Outcome State Fault Refusal :=
  .next (doPea (eaField s.fetched) (s.fetched.resolved .abs))

/-- PEI (a) (46_stack.md R174). -/
def execPeiInd (p : QWord) (_x : QWord) (s : State) : Host.Outcome State Fault Refusal :=
  .next (doPei (eaAbsInd p) (s.fetched.resolved .absInd))

/-- PER d (46_stack.md R175). -/
def execPerRel (d : Word) (s : State) : Host.Outcome State Fault Refusal :=
  .next (doPer (eaRel relBase d s.fetched) (s.fetched.resolved .rel))

/-- PHP (46_stack.md R176). -/
def execPhp (s : State) : Host.Outcome State Fault Refusal :=
  .next (doPhp (s.fetched.resolved .impl))

/-- PLP (46_stack.md R177). -/
def execPlp (s : State) : Host.Outcome State Fault Refusal :=
  .next (doPlp (s.fetched.resolved .impl))

end Sys2Proof.Machine
end

