-- ==== Sys2Proof/Machine/Transfers.lean ====
section
/-! DEFINITION. The thirteen register transfers (45_transfers.md). -/

namespace Sys2Proof.Machine

/-- The TAX handler (45_transfers.md R146). -/
def doTax (s : State) : State := ((s.setX s.a).setNZ64 s.a).charge (Config.hcyc .tax)

/-- The TAY handler (45_transfers.md R147). -/
def doTay (s : State) : State := ((s.setY s.a).setNZ64 s.a).charge (Config.hcyc .tay)

/-- The TXA handler (45_transfers.md R148). -/
def doTxa (s : State) : State := ((s.setA s.x).setNZ64 s.x).charge (Config.hcyc .txa)

/-- The TXY handler (45_transfers.md R149). -/
def doTxy (s : State) : State := ((s.setY s.x).setNZ64 s.x).charge (Config.hcyc .txy)

/-- The TYA handler (45_transfers.md R150). -/
def doTya (s : State) : State := ((s.setA s.y).setNZ64 s.y).charge (Config.hcyc .tya)

/-- The TYX handler (45_transfers.md R151). -/
def doTyx (s : State) : State := ((s.setX s.y).setNZ64 s.y).charge (Config.hcyc .tyx)

/-- The TSA handler (45_transfers.md R152). -/
def doTsa (s : State) : State := ((s.setA s.sp).setNZ64 s.sp).charge (Config.hcyc .tsa)

/-- The TSX handler (45_transfers.md R153). -/
def doTsx (s : State) : State := ((s.setX s.sp).setNZ64 s.sp).charge (Config.hcyc .tsx)

/-- The TAS handler (45_transfers.md R154). -/
def doTas (s : State) : State := (s.setSP s.a).charge (Config.hcyc .tas)

/-- The TXS handler (45_transfers.md R155). -/
def doTxs (s : State) : State := (s.setSP s.x).charge (Config.hcyc .txs)

/-- The TBA handler (45_transfers.md R156). -/
def doTba (s : State) : State := ((s.setA s.b).setNZ64 s.b).charge (Config.hcyc .tba)

/-- The TCD handler (45_transfers.md R157). -/
def doTcd (s : State) : State := (s.setD s.a).charge (Config.hcyc .tcd)

/-- The TDC handler (45_transfers.md R158). -/
def doTdc (s : State) : State := ((s.setA s.d).setNZ64 s.d).charge (Config.hcyc .tdc)

/-- TAX (45_transfers.md R146). -/
def execTax (s : State) : Host.Outcome State Fault Refusal :=
  .next (doTax (s.fetched.resolved .impl))

/-- TAY (45_transfers.md R147). -/
def execTay (s : State) : Host.Outcome State Fault Refusal :=
  .next (doTay (s.fetched.resolved .impl))

/-- TXA (45_transfers.md R148). -/
def execTxa (s : State) : Host.Outcome State Fault Refusal :=
  .next (doTxa (s.fetched.resolved .impl))

/-- TXY (45_transfers.md R149). -/
def execTxy (s : State) : Host.Outcome State Fault Refusal :=
  .next (doTxy (s.fetched.resolved .impl))

/-- TYA (45_transfers.md R150). -/
def execTya (s : State) : Host.Outcome State Fault Refusal :=
  .next (doTya (s.fetched.resolved .impl))

/-- TYX (45_transfers.md R151). -/
def execTyx (s : State) : Host.Outcome State Fault Refusal :=
  .next (doTyx (s.fetched.resolved .impl))

/-- TSA (45_transfers.md R152). -/
def execTsa (s : State) : Host.Outcome State Fault Refusal :=
  .next (doTsa (s.fetched.resolved .impl))

/-- TSX (45_transfers.md R153). -/
def execTsx (s : State) : Host.Outcome State Fault Refusal :=
  .next (doTsx (s.fetched.resolved .impl))

/-- TAS (45_transfers.md R154). -/
def execTas (s : State) : Host.Outcome State Fault Refusal :=
  .next (doTas (s.fetched.resolved .impl))

/-- TXS (45_transfers.md R155). -/
def execTxs (s : State) : Host.Outcome State Fault Refusal :=
  .next (doTxs (s.fetched.resolved .impl))

/-- TBA (45_transfers.md R156). -/
def execTba (s : State) : Host.Outcome State Fault Refusal :=
  .next (doTba (s.fetched.resolved .impl))

/-- TCD (45_transfers.md R157). -/
def execTcd (s : State) : Host.Outcome State Fault Refusal :=
  .next (doTcd (s.fetched.resolved .impl))

/-- TDC (45_transfers.md R158). -/
def execTdc (s : State) : Host.Outcome State Fault Refusal :=
  .next (doTdc (s.fetched.resolved .impl))

end Sys2Proof.Machine
end

