-- ==== Sys2Proof/Machine/Traps.lean ====
section
/-! DEFINITION. BRK, COP, STP and WAI (43_traps_halts.md). -/

namespace Sys2Proof.Machine

/-- The BRK handler: the shared trap entry and its 8 cycles (43_traps_halts.md R130). -/
def doBrk (s : State) (order : Endian := endian) : State := (s.enterTrap order).charge 8

/-- The COP handler on the payload at `ea` (43_traps_halts.md R131, decision D21). -/
def doCop (ea : QWord) (c : CopCapture) (s : State) : State := (s.enterCop ea c).charge (Config.hcyc .cop)

/-- The STP handler (43_traps_halts.md R132). -/
def doStp (s : State) : State := (s.setStop .stop).charge (Config.hcyc .stp)

/-- The WAI handler: it differs from STP in the reason alone; nothing wakes it but `resume` (43_traps_halts.md R133,
decision D22; log 16). -/
def doWai (s : State) : State := (s.setStop .wait).charge (Config.hcyc .wai)

/-- BRK (43_traps_halts.md R130). -/
def execBrk (s : State) : Host.Outcome State Fault Refusal :=
  .next (doBrk (s.fetched.resolved .impl))

/-- COP (43_traps_halts.md R131). -/
def execCop (size op : Byte) (words : List Word) (s : State) : Host.Outcome State Fault Refusal :=
  .next (doCop (eaField s.fetched) ⟨size, op, words⟩ (s.fetched.resolved .imm8))

/-- STP (43_traps_halts.md R132). -/
def execStp (s : State) : Host.Outcome State Fault Refusal :=
  .next (doStp (s.fetched.resolved .impl))

/-- WAI (43_traps_halts.md R133). -/
def execWai (s : State) : Host.Outcome State Fault Refusal :=
  .next (doWai (s.fetched.resolved .impl))

end Sys2Proof.Machine
end

