-- ==== Sys2Proof/Machine/Dispatch.lean ====
section
/-! DEFINITION. Dispatch: one arm for each constructor of Instr, each one direct call of its meaning (30_encoding.md R65). -/

namespace Sys2Proof.Machine

/-- The meaning of an instruction at the address in `pc`: fetch, resolver and handler (40_addressing_modes.md R80). -/
def exec (i : Instr) (s : State) : Host.Outcome State Fault Refusal :=
  match i with
  -- 41_adc.md
  | .adcImm8 imm => Sys2Proof.Machine.execAdcImm8 imm s
  | .adcImm16 imm => Sys2Proof.Machine.execAdcImm16 imm s
  | .adcImm32 imm => Sys2Proof.Machine.execAdcImm32 imm s
  | .adcImm64 imm x => Sys2Proof.Machine.execAdcImm64 imm x s
  | .adcAbs f => Sys2Proof.Machine.execAdcAbs f s
  | .adcAbsX f => Sys2Proof.Machine.execAdcAbsX f s
  | .adcAbsY f => Sys2Proof.Machine.execAdcAbsY f s
  | .adcSR d => Sys2Proof.Machine.execAdcSR d s
  | .adcSRIY d => Sys2Proof.Machine.execAdcSRIY d s
  -- 42_branches_jumps.md
  | .bcc d => Sys2Proof.Machine.execBcc d s
  | .bcs d => Sys2Proof.Machine.execBcs d s
  | .beq d => Sys2Proof.Machine.execBeq d s
  | .bne d => Sys2Proof.Machine.execBne d s
  | .bmi d => Sys2Proof.Machine.execBmi d s
  | .bpl d => Sys2Proof.Machine.execBpl d s
  | .bvc d => Sys2Proof.Machine.execBvc d s
  | .bvs d => Sys2Proof.Machine.execBvs d s
  | .bra d => Sys2Proof.Machine.execBra d s
  | .brl d => Sys2Proof.Machine.execBrl d s
  | .jmpAbs f => Sys2Proof.Machine.execJmpAbs f s
  | .jmpInd p x => Sys2Proof.Machine.execJmpInd p x s
  | .jmpXInd f => Sys2Proof.Machine.execJmpXInd f s
  | .jsrAbs f => Sys2Proof.Machine.execJsrAbs f s
  | .jsrXInd f => Sys2Proof.Machine.execJsrXInd f s
  | .rts => Sys2Proof.Machine.execRts s
  -- 43_traps_halts.md
  | .brk => Sys2Proof.Machine.execBrk s
  | .cop size op words => Sys2Proof.Machine.execCop size op words s
  | .stp => Sys2Proof.Machine.execStp s
  | .wai => Sys2Proof.Machine.execWai s
  -- 44_block_move.md
  | .mvn => Sys2Proof.Machine.execMvn s
  | .mvp => Sys2Proof.Machine.execMvp s
  -- 45_transfers.md
  | .tax => Sys2Proof.Machine.execTax s
  | .tay => Sys2Proof.Machine.execTay s
  | .txa => Sys2Proof.Machine.execTxa s
  | .txy => Sys2Proof.Machine.execTxy s
  | .tya => Sys2Proof.Machine.execTya s
  | .tyx => Sys2Proof.Machine.execTyx s
  | .tsa => Sys2Proof.Machine.execTsa s
  | .tsx => Sys2Proof.Machine.execTsx s
  | .tas => Sys2Proof.Machine.execTas s
  | .txs => Sys2Proof.Machine.execTxs s
  | .tba => Sys2Proof.Machine.execTba s
  | .tcd => Sys2Proof.Machine.execTcd s
  | .tdc => Sys2Proof.Machine.execTdc s
  -- 46_stack.md
  | .pha => Sys2Proof.Machine.execPha s
  | .phx => Sys2Proof.Machine.execPhx s
  | .phy => Sys2Proof.Machine.execPhy s
  | .pla => Sys2Proof.Machine.execPla s
  | .plx => Sys2Proof.Machine.execPlx s
  | .ply => Sys2Proof.Machine.execPly s
  | .peaAbs f => Sys2Proof.Machine.execPeaAbs f s
  | .peiInd p x => Sys2Proof.Machine.execPeiInd p x s
  | .perRel d => Sys2Proof.Machine.execPerRel d s
  | .php => Sys2Proof.Machine.execPhp s
  | .plp => Sys2Proof.Machine.execPlp s
  -- 47_flag_bit_ops.md
  | .repImm8 imm => Sys2Proof.Machine.execRepImm8 imm s
  | .sepImm8 imm => Sys2Proof.Machine.execSepImm8 imm s
  | .trbAbs f => Sys2Proof.Machine.execTrbAbs f s
  | .tsbAbs f => Sys2Proof.Machine.execTsbAbs f s
  -- 48_shifts.md
  | .aslAbs f => Sys2Proof.Machine.execAslAbs f s
  | .aslAbsX f => Sys2Proof.Machine.execAslAbsX f s
  | .lsrAbs f => Sys2Proof.Machine.execLsrAbs f s
  | .lsrAbsX f => Sys2Proof.Machine.execLsrAbsX f s
  | .rolAbs f => Sys2Proof.Machine.execRolAbs f s
  | .rolAbsX f => Sys2Proof.Machine.execRolAbsX f s
  | .rorAbs f => Sys2Proof.Machine.execRorAbs f s
  | .rorAbsX f => Sys2Proof.Machine.execRorAbsX f s
  | .aslA => Sys2Proof.Machine.execAslA s
  | .lsrA => Sys2Proof.Machine.execLsrA s
  | .rolA => Sys2Proof.Machine.execRolA s
  | .rorA => Sys2Proof.Machine.execRorA s

end Sys2Proof.Machine
end

