-- ==== Sys2Proof/Machine/Fetch.lean ====
section
/-! DEFINITION. Fetching the instruction at an address (40_addressing_modes.md R80, 20_memory.md R54). -/

namespace Sys2Proof.Machine

/-- How many bytes the instruction at `pc` has, told from its opcode byte and, for COP, its size byte (30_encoding.md R64). -/
def fetchLength (m : Memory) (pc : QWord) : Nat := lengthFrom (m.get pc.toNat) (m.get (pc + 1).toNat)

/-- The bytes of the instruction at `pc`, from the memory as it is now: nothing is prefetched (20_memory.md R54). -/
def fetchBytes (m : Memory) (pc : QWord) : List Byte := m.readBytes (fetchLength m pc) pc

/-- The instruction at `pc`, with its operand bytes (log 10). -/
def fetchInstr (m : Memory) (pc : QWord) : Decoded := decode (fetchBytes m pc)

end Sys2Proof.Machine
end

