-- ==== Sys2Proof/Machine/Step.lean ====
section
/-! DEFINITION. One `step()` of the core (40_addressing_modes.md R80). -/

namespace Sys2Proof.Machine

/-- `step()`: nothing at all while stopped (60_exceptions.md R211); otherwise the instruction at `pc`, or the fault of an unassigned
opcode (60_exceptions.md R220). -/
def step (s : State) : Host.Outcome State Fault Refusal :=
  if s.stop ≠ .running then .next s
  else
    match fetchInstr s.mem s.pc with
    | .ok (i, _) => exec i s
    | .error (.unassigned b) => .fault (.illegalOpcode b s.pc)
    | .error .truncated => .refused .truncatedFetch

/-- The state with the instruction of an opcode-table row placed where `step` fetches next, and the core RUNNING so that it does
fetch (log 2). -/
def State.withFetchWord (s : State) (nbits w : Nat) : State :=
  { s with stop := .running, mem := s.mem.writeBytes s.pc (tableBytes nbits w) }

end Sys2Proof.Machine
end

