-- ==== Sys2Proof/Machine/Helpers.lean ====
section
/-! DEFINITION. The split, join and swap helpers of the register model (10_state.md R19). A value of width `w` is a value of width
`h + h` with `h = w/2`; the widths of the rule, 8, 16, 32 and 64, are `h` = 4, 8, 16 and 32. No handler is phrased through them. -/

namespace Sys2Proof.Machine

/-- `lo_w(v) = v[w/2-1:0]` (10_state.md R19). -/
def lo {h : Nat} (v : BitVec (h + h)) : BitVec h := v.extractLsb' 0 h

/-- `hi_w(v) = v[w-1:w/2]` (10_state.md R19). -/
def hi {h : Nat} (v : BitVec (h + h)) : BitVec h := v.extractLsb' h h

/-- `join_w(l, u) = u * 2^(w/2) + l`, the low half first (10_state.md R19). -/
def join {h : Nat} (l u : BitVec h) : BitVec (h + h) := u ++ l

/-- `swap_w(v) = join_w(hi_w(v), lo_w(v))` (10_state.md R19). -/
def swap {h : Nat} (v : BitVec (h + h)) : BitVec (h + h) := join (hi v) (lo v)

end Sys2Proof.Machine
end

