-- ==== Sys2Proof/Machine/Facade.lean ====
section
/-! DEFINITION. The core for ANY opcode map, either relative base and either byte order of the facade (00_scope.md R4), written as the spec writes it: fetch one byte, look it up, run the
resolver of the mode on memory, run the handler on the effective address (40_addressing_modes.md R80, 30_encoding.md R65, R66). It
shares every resolver and handler with `exec`; the difference is that operands come from memory when they are needed, not from a
decoded instruction. `step` is this machine at the spec's defaults (an obligation says so). -/

namespace Sys2Proof.Machine

/-- `MemRead(ea, nbytes(w))`, zero-extended to 64 bits (41_adc.md R100, decision D15). ADC is the only handler that has a tag. -/
def State.readTag (s : State) (tag : Option Width) (ea : QWord) (order : Endian) : QWord :=
  match tag with
  | some .byte => (s.read8 ea).setWidth 64
  | some .word => (s.read16 ea order).setWidth 64
  | some .dword => (s.read32 ea order).setWidth 64
  | some .qword | none => s.read64 ea order

/-- The COP payload at `ea`: size byte, opcode byte, then `size` words (43_traps_halts.md R131). -/
def State.copAt (s : State) (ea : QWord) (order : Endian) : CopCapture where
  size := s.read8 ea
  opcode := s.read8 (ea + 1)
  words := (List.range (s.read8 ea).toNat).map fun i => s.read16 (ea + 2 + BitVec.ofNat 64 (2 * i)) order

/-- The effective address of a mode, its operands read in memory at `pc1` (40_addressing_modes.md R83 to R92). It is unused for IMPL and
ACC (R88). -/
def resolveEa (order : Endian) (base : RelBase) (m : Mode) (s : State) : QWord :=
  match m with
  | .impl | .acc => 0
  | .imm8 | .imm16 | .imm32 | .imm64 | .abs => eaField s
  | .absX => eaAbsX s
  | .absY => eaAbsY s
  | .absInd => eaAbsInd (s.read64 s.pc order)
  | .absXInd => eaAbsXInd s order
  | .rel => eaRel base (s.read16 s.pc order) s
  | .sr => eaSR (s.read8 s.pc) s
  | .srIY => eaSRIY (s.read8 s.pc) s order

/-- A handler on its effective address (41_adc.md R100 to 48_shifts.md R202). -/
def handle (order : Endian) (h : Handler) (tag : Option Width) (ea : QWord) (s : State) : State :=
  match h with
  | .adc => doAdc (s.readTag tag ea order) s
  | .bcc => doBranch (!s.flag .carry) ea s
  | .bcs => doBranch (s.flag .carry) ea s
  | .beq => doBranch (s.flag .zero) ea s
  | .bne => doBranch (!s.flag .zero) ea s
  | .bmi => doBranch (s.flag .negative) ea s
  | .bpl => doBranch (!s.flag .negative) ea s
  | .bvc => doBranch (!s.flag .overflow) ea s
  | .bvs => doBranch (s.flag .overflow) ea s
  | .bra => doBranch true ea s
  | .brl => doBranch true ea s
  | .jmp => doJmp ea s
  | .jsr => doJsr ea s order
  | .rts => doRts s order
  | .brk => doBrk s order
  | .cop => doCop ea (s.copAt ea order) s
  | .stp => doStp s
  | .wai => doWai s
  | .mvn => doMvn s
  | .mvp => doMvp s
  | .tax => doTax s
  | .tay => doTay s
  | .txa => doTxa s
  | .txy => doTxy s
  | .tya => doTya s
  | .tyx => doTyx s
  | .tsa => doTsa s
  | .tsx => doTsx s
  | .tas => doTas s
  | .txs => doTxs s
  | .tba => doTba s
  | .tcd => doTcd s
  | .tdc => doTdc s
  | .pha => doPha s order
  | .phx => doPhx s order
  | .phy => doPhy s order
  | .pla => doPla s order
  | .plx => doPlx s order
  | .ply => doPly s order
  | .pea => doPea ea s order
  | .pei => doPei ea s order
  | .per => doPer ea s order
  | .php => doPhp s
  | .plp => doPlp s
  | .rep => doRep (s.read8 ea) s
  | .sep => doSep (s.read8 ea) s
  | .trb => doTrb ea s order
  | .tsb => doTsb ea s order
  | .asl => doAsl ea s order
  | .lsr => doLsr ea s order
  | .rol => doRol ea s order
  | .ror => doRor ea s order
  | .aslA => doAslA s
  | .lsrA => doLsrA s
  | .rolA => doRolA s
  | .rorA => doRorA s

/-- One executed entry of an opcode map: fetch, resolve, handle (40_addressing_modes.md R80). -/
def runEntry (order : Endian) (base : RelBase) (e : Entry) (s : State) : State :=
  handle order e.handler e.tag (resolveEa order base e.mode s.fetched) (s.fetched.resolved e.mode)

/-- `step()` for a byte order, a relative base and an opcode map, as arguments (00_scope.md R4); an ill-formed map is refused
(30_encoding.md R66). -/
def facadeStep (order : Endian) (base : RelBase) (map : OpcodeMap) (s : State) : Host.Outcome State Fault Refusal :=
  if s.stop ≠ .running then .next s
  else if !map.wf then .refused .illFormedOpcodeMap
  else
    match map.lookup (s.read8 s.pc) with
    | some e => .next (runEntry order base e s)
    | none => .fault (.illegalOpcode (s.read8 s.pc) s.pc)

end Sys2Proof.Machine
end

