-- ==== Sys2Proof/Machine/Accesses.lean ====
section
/-! DEFINITION. The facade calls of a step, in the order the core issues them (20_memory.md R48, R50). In the flat memory model a read
leaves no trace in the state, so the list is a function of the state before the step (log 13). -/

namespace Sys2Proof.Machine

/-- One facade call: an access of `n` bytes at an address, for a write with its value (20_memory.md R41, R42). -/
inductive Access where
  | read  (addr : QWord) (n : Nat)
  | write (addr : QWord) (n : Nat) (v : Nat)
  deriving DecidableEq, Repr

/-- `nbytes(w)` of a width tag (00_scope.md R5). -/
def tagBytes : Option Width → Nat
  | some .byte => 1
  | some .word => 2
  | some .dword => 4
  | some .qword | none => 8

/-- The resolver's calls; `s.pc` is the first operand byte (20_memory.md R48). -/
def resolverAccesses (m : Mode) (s : State) : List Access :=
  match m with
  | .absInd => [.read s.pc 8]
  | .absXInd => [.read (s.pc + s.x) 8]
  | .rel => [.read s.pc 2]
  | .sr => [.read s.pc 1]
  | .srIY => [.read s.pc 1, .read (s.sp + sext8 (s.read8 s.pc)) 8]
  | .impl | .acc | .imm8 | .imm16 | .imm32 | .imm64 | .abs | .absX | .absY => []

/-- The handler's calls on the state the resolver left (20_memory.md R48). -/
def handlerAccesses (order : Endian) (h : Handler) (tag : Option Width) (ea : QWord) (s : State) : List Access :=
  match h with
  | .adc => [.read ea (tagBytes tag)]
  | .jsr => [.write s.sp 2 (lowWord s.pc).toNat]
  | .rts | .pla | .plx | .ply => [.read (s.sp + 2) 2]
  | .brk => [.write s.sp 2 (lowWord s.pc).toNat, .write (s.sp - 2) 1 s.p.toNat, .read brkVector 2]
  | .cop => .read ea 1 :: .read (ea + 1) 1 ::
      (List.range (s.read8 ea).toNat).map fun i => .read (ea + 2 + BitVec.ofNat 64 (2 * i)) 2
  | .pha => [.write s.sp 2 (lowWord s.a).toNat]
  | .phx => [.write s.sp 2 (lowWord s.x).toNat]
  | .phy => [.write s.sp 2 (lowWord s.y).toNat]
  | .pea | .pei => [.read ea 2, .write s.sp 2 (s.read16 ea order).toNat]
  | .per => [.write s.sp 2 (lowWord ea).toNat]
  | .php => [.write s.sp 1 s.p.toNat]
  | .plp => [.read (s.sp + 1) 1]
  | .rep | .sep => [.read ea 1]
  | .trb => [.read ea 8, .write ea 8 (s.read64 ea order &&& ~~~s.a).toNat]
  | .tsb => [.read ea 8, .write ea 8 (s.read64 ea order ||| s.a).toNat]
  | .asl => [.read ea 2, .write ea 2 (aslWord (s.read16 ea order)).toNat]
  | .lsr => [.read ea 2, .write ea 2 (lsrWord (s.read16 ea order)).toNat]
  | .rol => [.read ea 2, .write ea 2 (rolWord (s.read16 ea order) (s.flag .carry)).toNat]
  | .ror => [.read ea 2, .write ea 2 (rorWord (s.read16 ea order) (s.flag .carry)).toNat]
  | .bcc | .bcs | .beq | .bne | .bmi | .bpl | .bvc | .bvs | .bra | .brl | .jmp | .stp | .wai
  | .mvn | .mvp | .tax | .tay | .txa | .txy | .tya | .tyx | .tsa | .tsx | .tas | .txs | .tba
  | .tcd | .tdc | .aslA | .lsrA | .rolA | .rorA => []

/-- The calls of one executed entry: the opcode fetch, the resolver's, the handler's (20_memory.md R48). -/
def Entry.accesses (order : Endian) (base : RelBase) (e : Entry) (s : State) : List Access :=
  .read s.pc 1 ::
    (resolverAccesses e.mode s.fetched
      ++ handlerAccesses order e.handler e.tag (resolveEa order base e.mode s.fetched) (s.fetched.resolved e.mode))

/-- The calls of one `step()` for a byte order, a relative base and an opcode map: none while stopped (60_exceptions.md R211), the
opcode fetch alone for an unassigned byte (60_exceptions.md R220). -/
def facadeAccesses (order : Endian) (base : RelBase) (map : OpcodeMap) (s : State) : List Access :=
  if s.stop ≠ .running then []
  else
    match map.lookup (s.read8 s.pc) with
    | some e => Entry.accesses order base e s
    | none => [.read s.pc 1]

/-- The calls of one `step`. -/
def stepAccesses (s : State) : List Access := facadeAccesses endian relBase opcodeMap s

/-- Memory after the writes of a list of calls, in order (20_memory.md R52). -/
def applyWrites (m : Memory) (l : List Access) (order : Endian := endian) : Memory :=
  match l with
  | [] => m
  | .read _ _ :: r => applyWrites m r order
  | .write a n v :: r => applyWrites (m.write a n v order) r order

end Sys2Proof.Machine
end

