-- ==== Sys2Proof/Machine/Trace.lean ====
section
/-! DEFINITION. The trace event of a step (60_exceptions.md R231). The sink is external and the event is output only, so it is a
function of the state before the step and not part of it (decision D30; log 12). -/

namespace Sys2Proof.Machine

/-- A trace event: the mnemonic, width-suffixed where the handler has a tag, and the resolved operand address; none for the modes
whose address is unused (60_exceptions.md R231). -/
structure TraceEvent where
  mnemonic : String
  ea       : Option QWord
  deriving DecidableEq, Repr

/-- The mnemonic of a handler (00_scope.md section 3). -/
def Handler.mnemonic : Handler → String
  | .adc => "ADC"
  | .bcc => "BCC"
  | .bcs => "BCS"
  | .beq => "BEQ"
  | .bne => "BNE"
  | .bmi => "BMI"
  | .bpl => "BPL"
  | .bvc => "BVC"
  | .bvs => "BVS"
  | .bra => "BRA"
  | .brl => "BRL"
  | .jmp => "JMP"
  | .jsr => "JSR"
  | .rts => "RTS"
  | .brk => "BRK"
  | .cop => "COP"
  | .stp => "STP"
  | .wai => "WAI"
  | .mvn => "MVN"
  | .mvp => "MVP"
  | .tax => "TAX"
  | .tay => "TAY"
  | .txa => "TXA"
  | .txy => "TXY"
  | .tya => "TYA"
  | .tyx => "TYX"
  | .tsa => "TSA"
  | .tsx => "TSX"
  | .tas => "TAS"
  | .txs => "TXS"
  | .tba => "TBA"
  | .tcd => "TCD"
  | .tdc => "TDC"
  | .pha => "PHA"
  | .phx => "PHX"
  | .phy => "PHY"
  | .pla => "PLA"
  | .plx => "PLX"
  | .ply => "PLY"
  | .pea => "PEA"
  | .pei => "PEI"
  | .per => "PER"
  | .php => "PHP"
  | .plp => "PLP"
  | .rep => "REP"
  | .sep => "SEP"
  | .trb => "TRB"
  | .tsb => "TSB"
  | .asl | .aslA => "ASL"
  | .lsr | .lsrA => "LSR"
  | .rol | .rolA => "ROL"
  | .ror | .rorA => "ROR"

/-- The suffix of a width tag (30_encoding.md R70). -/
def widthSuffix : Option Width → String
  | some .byte => ".b"
  | some .word => ".w"
  | some .dword => ".d"
  | some .qword => ".q"
  | none => ""

/-- The event of an entry executed at `s.pc`. -/
def Entry.event (order : Endian) (base : RelBase) (e : Entry) (s : State) : TraceEvent where
  mnemonic := Handler.mnemonic e.handler ++ widthSuffix e.tag
  ea := if e.mode.unusedEa then none else some (resolveEa order base e.mode s.fetched)

/-- The event that one `step()` emits on `s`, for a byte order, a relative base and an opcode map: none while stopped, none when tracing
is off, none for an unassigned opcode (40_addressing_modes.md R80, 60_exceptions.md R211, R220, R231). -/
def facadeEvent (order : Endian) (base : RelBase) (map : OpcodeMap) (s : State) : Option TraceEvent :=
  if s.stop = .running ∧ s.trace = true then
    match map.lookup (s.read8 s.pc) with
    | some e => some (Entry.event order base e s)
    | none => none
  else none

/-- The event that `step` emits on `s`. -/
def stepEvent (s : State) : Option TraceEvent := facadeEvent endian relBase opcodeMap s

end Sys2Proof.Machine
end

