-- ==== Sys2Proof/Machine/Controller.lean ====
section
/-! DEFINITION. The operations the host performs on the core between steps (60_exceptions.md R210 to R218, 70_reset_and_hazards.md R240).
Each is one call, atomic with respect to the others (20_memory.md R49). -/

namespace Sys2Proof.Machine

/-- `reset(t)` for a given `RESET_STATE`: everything of 10_state.md R26; memory is untouched (70_reset_and_hazards.md R241), and the record
of illegal opcodes is kept (log 9). -/
def State.hostReset (rs : ResetState) (t : Bool) (s : State) : State :=
  { State.ofReset rs t s.mem with illegal := s.illegal }

/-- `resume()` (60_exceptions.md R212). -/
def State.resume (s : State) : State := s.setStop .running

/-- `interrupt()` (60_exceptions.md R213). -/
def State.interrupt (s : State) : State := s.setInterrupted true

/-- `isStopped()` (60_exceptions.md R214). -/
def State.isStopped (s : State) : Bool := s.stop != .running

/-- `getStopReason()` (60_exceptions.md R214). -/
def State.getStopReason (s : State) : StopReason := s.stop

/-- `getCycles()` (60_exceptions.md R214). -/
def State.getCycles (s : State) : QWord := s.cycles

/-- `getCopInstSize()` (60_exceptions.md R215). -/
def State.getCopInstSize (s : State) : Byte :=
  match s.cop with
  | some c => c.size
  | none => 0

/-- What `getCopInst` returns: the opcode, and the words it writes to the caller's buffer as a value, so that a short buffer cannot
arise (60_exceptions.md R216, 93_implementation_defined.md U7). -/
def State.getCopInst (s : State) : Byte × List Word :=
  match s.cop with
  | some c => (c.opcode, c.words)
  | none => (0, [])

/-- The state after `getCopInst`: the capture cleared (60_exceptions.md R216). -/
def State.drained (s : State) : State := s.setCop none

/-- What the host does to the core or to memory between steps: a call, or `poke`, a byte of memory changed by the host (its DMA, its
devices; 20_memory.md R52). -/
inductive HostCall where
  | reset (rs : ResetState) (t : Bool)
  | step
  | resume
  | interrupt
  | isStopped
  | getStopReason
  | getCycles
  | getCopInstSize
  | getCopInst
  | poke (addr : QWord) (v : Byte)
  deriving DecidableEq, Repr

/-- What a call answers to the host. -/
inductive HostReply where
  | done
  | stepped (event : Option TraceEvent)
  | faulted (f : Fault)
  | refused (r : Refusal)
  | bool (v : Bool)
  | reason (r : StopReason)
  | cycles (v : QWord)
  | size (v : Byte)
  | copInst (op : Byte) (words : List Word)
  deriving DecidableEq, Repr

/-- The `step` call: `step`'s next state with the event it emits; after a fault, the halted core (60_exceptions.md R220). -/
def State.hostStep (s : State) : HostReply × State :=
  match step s with
  | .next t => (.stepped (stepEvent s), t)
  | .fault (.illegalOpcode b a) => (.faulted (.illegalOpcode b a), s.haltIllegal b)
  | .refused r => (.refused r, s)

/-- One act of the host: its answer and the state it leaves (60_exceptions.md R210 to R217, 20_memory.md R52). -/
def hostCall (c : HostCall) (s : State) : HostReply × State :=
  match c with
  | .reset rs t => (.done, s.hostReset rs t)
  | .step => s.hostStep
  | .resume => (.done, s.resume)
  | .interrupt => (.done, s.interrupt)
  | .isStopped => (.bool s.isStopped, s)
  | .getStopReason => (.reason s.getStopReason, s)
  | .getCycles => (.cycles s.getCycles, s)
  | .getCopInstSize => (.size s.getCopInstSize, s)
  | .getCopInst => (.copInst s.getCopInst.1 s.getCopInst.2, s.drained)
  | .poke addr v => (.done, s.write8 addr v)

/-- The state after a sequence of acts of the host, in order (60_exceptions.md R223). -/
def hostCalls : List HostCall → State → State
  | [], s => s
  | c :: r, s => hostCalls r (hostCall c s).2

end Sys2Proof.Machine
end

