-- ==== Sys2Proof/Safety.lean ====
section
/-! DEFINITION. The terms claims are stated in: the invariant of the core, what an instruction leaves unchanged, and the spec's own
arithmetic on natural numbers, written apart from the model's. -/

namespace Sys2Proof.Safety

open Sys2Proof.Machine

/-! ### The invariant -/

/-- The states the spec speaks of: memory canonical, 128 zero-cache entries (10_state.md R20), and a capture that holds exactly `size`
words (10_state.md R22). -/
def Inv (s : State) : Prop :=
  s.mem.wf = true ∧ s.z.length = 128 ∧ ∀ c, s.cop = some c → c.words.length = c.size.toNat

/-! ### Frames -/

/-- The 64-bit registers by name (10_state.md R10, R11). -/
inductive Reg where
  | a | b | x | y | sp | d
  deriving DecidableEq, Repr

/-- A register of the state. -/
def reg (s : State) : Reg → QWord
  | .a => s.a
  | .b => s.b
  | .x => s.x
  | .y => s.y
  | .sp => s.sp
  | .d => s.d

/-- Every register but those named is unchanged. -/
def SameRegsBut (rs : List Reg) (s t : State) : Prop := ∀ r, r ∉ rs → reg t r = reg s r

/-- Every flag but those named is unchanged. -/
def SameFlagsBut (fs : List Flag) (s t : State) : Prop := ∀ f, f ∉ fs → t.flag f = s.flag f

/-- The stop reason and the COP capture are unchanged. -/
def SameController (s t : State) : Prop := t.stop = s.stop ∧ t.cop = s.cop

/-- The zero-cache, the pending interrupt, the trace bit and the record of illegal opcodes are unchanged. -/
def SameHidden (s t : State) : Prop :=
  t.z = s.z ∧ t.interrupted = s.interrupted ∧ t.trace = s.trace ∧ t.illegal = s.illegal

/-- Everything but the registers and flags named, `pc`, `tpc`, `cycles` and memory is unchanged. -/
def Frame (rs : List Reg) (fs : List Flag) (s t : State) : Prop :=
  SameRegsBut rs s t ∧ SameFlagsBut fs s t ∧ SameController s t ∧ SameHidden s t

/-- Every byte of memory is unchanged. -/
def SameBytes (s t : State) : Prop := ∀ k, t.read8 k = s.read8 k

/-- Every byte of memory outside the `n` bytes from `lo` on is unchanged. -/
def SameBytesBut (lo : QWord) (n : Nat) (s t : State) : Prop :=
  ∀ k, (∀ i < n, k ≠ lo + BitVec.ofNat 64 i) → t.read8 k = s.read8 k

/-! ### Completion -/

/-- The instruction answers a next state, and that state satisfies `Q`. -/
def Completes (i : Instr) (s : State) (Q : State → Prop) : Prop := ∃ t, exec i s = .next t ∧ Q t

/-- `cycles` went up by `FETCH_CYC` and `n` more, modulo 2^64. -/
def Charged (n : Nat) (s t : State) : Prop := t.cycles = s.cycles + BitVec.ofNat 64 (Config.fetchCyc + n)

/-- `tpc` holds the instruction's own address, and `n` cycles were charged beyond the fetch. -/
def Ran (n : Nat) (s t : State) : Prop := t.tpc = s.pc ∧ Charged n s t

/-- The instruction ran and `pc` is `len` bytes further. -/
def Advanced (len n : Nat) (s t : State) : Prop := t.pc = s.pc + BitVec.ofNat 64 len ∧ Ran n s t

/-- `n` executions of one instruction in a row. -/
def execN (i : Instr) : Nat → State → Host.Outcome State Fault Refusal
  | 0, s => .next s
  | n + 1, s =>
    match exec i s with
    | .next t => execN i n t
    | .fault f => .fault f
    | .refused r => .refused r

/-! ### The spec's arithmetic -/

/-- N and Z of a 64-bit result (10_state.md R18). -/
def NZ64 (v : QWord) (t : State) : Prop := t.flag .negative = v.getLsbD 63 ∧ t.flag .zero = decide (v.toNat = 0)

/-- N and Z of a 16-bit result (10_state.md R18, decision D17). -/
def NZ16 (v : Word) (t : State) : Prop := t.flag .negative = v.getLsbD 15 ∧ t.flag .zero = decide (v.toNat = 0)

/-- A carry as a number. -/
def bit (c : Bool) : Nat := if c then 1 else 0

/-- The decimal correction of the `n` low nibbles, in order, on natural numbers (41_adc.md R100). -/
def bcdFix : Nat → Nat → Nat
  | 0, r => r
  | n + 1, r =>
    if bcdFix n r / 16 ^ n % 16 > 9 then (bcdFix n r + 6 * 16 ^ n) % 2 ^ 64 else bcdFix n r

/-- A displacement added to an address, both at 64 bits, the displacement signed (00_scope.md R5: `sext_64`). -/
def plusInt (a : QWord) (d : Int) : QWord := BitVec.ofInt 64 (a.toNat + d)

/-- The low 16 bits of an address as a 64-bit value: `trunc16` (00_scope.md R5). -/
def low16 (a : QWord) : QWord := BitVec.ofNat 64 (a.toNat % 65536)

/-- The low word of a register became `w` and bits 63 to 16 are as before (10_state.md R13). -/
def NarrowWrite (before after : QWord) (w : Nat) : Prop := after.toNat = before.toNat / 65536 * 65536 + w

/-- Decimal digit `i` of a packed decimal number. -/
def digit (r : QWord) (i : Nat) : Nat := r.toNat / 16 ^ i % 16

/-- The number that sixteen decimal digits stand for. -/
def bcdValue (r : QWord) : Nat := ((List.range 16).map fun i => digit r i * 10 ^ i).sum

/-- The effect of ADC with the zero-extended operand `m` (41_adc.md R100). -/
def AdcEffect (m : QWord) (s t : State) : Prop :=
  let raw := s.a.toNat + m.toNat + bit (s.flag .carry)
  let r := raw % 2 ^ 64
  let v := if s.flag .decimal then bcdFix 16 r else r
  t.a.toNat = v ∧
    t.flag .carry = decide (2 ^ 64 ≤ raw) ∧
    t.flag .overflow = decide (s.a.getLsbD 63 = m.getLsbD 63 ∧ r.testBit 63 ≠ s.a.getLsbD 63) ∧
    t.flag .negative = v.testBit 63 ∧
    t.flag .zero = decide (v = 0) ∧
    Frame [.a] [.carry, .overflow, .negative, .zero] s t ∧ SameBytes s t

/-- The effect of a branch with displacement `d` whose condition is `c`, the displacement counted from its own field
(42_branches_jumps.md R110; `REL_BASE = 0`, 40_addressing_modes.md R90). -/
def BranchEffect (c : Bool) (d : Word) (s t : State) : Prop :=
  t.pc = (if c then low16 (plusInt (s.pc + 1) d.toInt) else s.pc + 3) ∧
    Ran (1 + if c then 3 else 2) s t ∧ Frame [] [] s t ∧ SameBytes s t

/-- The effect of a word push of `w` by an instruction of `len` bytes (46_stack.md R165). -/
def PushedWord (w : Word) (len cyc : Nat) (s t : State) : Prop :=
  t.read16 s.sp = w ∧ t.sp = s.sp - 2 ∧ SameBytesBut s.sp 2 s t ∧ Frame [.sp] [] s t ∧ Advanced len cyc s t

/-- The effect of a memory shift that stores `r` at `ea` with carry out `c` (48_shifts.md). -/
def ShiftedWord (ea : QWord) (r : Nat) (c : Bool) (cyc : Nat) (s t : State) : Prop :=
  (t.read16 ea).toNat = r ∧ t.flag .carry = c ∧ NZ16 (BitVec.ofNat 16 r) t ∧ SameBytesBut ea 2 s t ∧
    Frame [] [.carry, .negative, .zero] s t ∧ Advanced 17 cyc s t

/-- The effect of an accumulator shift that leaves `r` in A[15:0] with carry out `c` (48_shifts.md section 2). -/
def ShiftedAcc (r : Nat) (c : Bool) (cyc : Nat) (s t : State) : Prop :=
  NarrowWrite s.a t.a r ∧ t.flag .carry = c ∧ NZ16 (BitVec.ofNat 16 r) t ∧ SameBytes s t ∧
    Frame [.a] [.carry, .negative, .zero] s t ∧ Advanced 1 cyc s t

/-- The effect of a transfer of `v` into a register that sets N and Z (45_transfers.md R145). -/
def LoadedNZ (r : Reg) (v : QWord) (cyc : Nat) (s t : State) : Prop :=
  reg t r = v ∧ NZ64 v t ∧ Frame [r] [.negative, .zero] s t ∧ SameBytes s t ∧ Advanced 1 cyc s t

/-- The effect of a transfer of `v` into a register that sets no flag (45_transfers.md R145). -/
def Loaded (r : Reg) (v : QWord) (cyc : Nat) (s t : State) : Prop :=
  reg t r = v ∧ Frame [r] [] s t ∧ SameBytes s t ∧ Advanced 1 cyc s t

/-- The effect of a pull into the low word of a register (46_stack.md R170 to R172). -/
def PulledWord (r : Reg) (cyc : Nat) (s t : State) : Prop :=
  NarrowWrite (reg s r) (reg t r) (s.read16 (s.sp + 2)).toNat ∧ NZ16 (s.read16 (s.sp + 2)) t ∧ t.sp = s.sp + 2 ∧
    Frame [r, .sp] [.negative, .zero] s t ∧ SameBytes s t ∧ Advanced 1 cyc s t

/-- The effect of one block-move step (44_block_move.md R140). -/
def CountedDown (cyc : Nat) (s t : State) : Prop :=
  NarrowWrite s.a t.a ((s.a.toNat + 65535) % 65536) ∧
    t.pc = (if s.a.toNat % 65536 = 0 then s.pc + 1 else s.pc) ∧
    Frame [.a] [] s t ∧ SameBytes s t ∧ Ran cyc s t

/-! ### Byte order -/

/-- The power of 256 that byte `i` of an `n`-byte access stands for (20_memory.md R45: with `ENDIAN = little` byte `i` is worth 256^i). -/
def place (order : Endian) (n i : Nat) : Nat :=
  match order with
  | .little => i
  | .big => n - 1 - i

/-- What the `n` bytes at `a` are worth together in a byte order (20_memory.md R45). -/
def bytesWorth (s : State) (a : QWord) (n : Nat) (order : Endian) : Nat :=
  ((List.range n).map fun i => (s.read8 (a + BitVec.ofNat 64 i)).toNat * 256 ^ place order n i).sum

/-! ### Trace events -/

/-- The rows of 0x00 to 0x54: the byte, its mnemonic, that of ADC suffixed with the width, and its mode (30_encoding.md R67,
60_exceptions.md R231). -/
def eventRows1 : List (Byte × String × Mode) :=
  [
    (0x00, "BRK", .impl), (0x02, "COP", .imm8), (0x08, "PHP", .impl), (0x0A, "ASL", .acc),
    (0x0C, "TSB", .abs), (0x0E, "ASL", .abs), (0x10, "BPL", .rel), (0x1B, "TAS", .impl),
    (0x1C, "TRB", .abs), (0x1E, "ASL", .absX), (0x20, "JSR", .abs), (0x28, "PLP", .impl),
    (0x2A, "ROL", .acc), (0x2E, "ROL", .abs), (0x30, "BMI", .rel), (0x3B, "TSA", .impl),
    (0x3E, "ROL", .absX), (0x44, "MVP", .impl), (0x48, "PHA", .impl), (0x4A, "LSR", .acc),
    (0x4C, "JMP", .abs), (0x4E, "LSR", .abs), (0x50, "BVC", .rel), (0x54, "MVN", .impl) ]

/-- The rows of 0x5A to 0x80: the byte, its mnemonic, that of ADC suffixed with the width, and its mode (30_encoding.md R67,
60_exceptions.md R231). -/
def eventRows2 : List (Byte × String × Mode) :=
  [
    (0x5A, "PHY", .impl), (0x5B, "TCD", .impl), (0x5E, "LSR", .absX), (0x60, "RTS", .impl),
    (0x61, "ADC.b", .imm8), (0x62, "PER", .rel), (0x63, "ADC.q", .sr), (0x65, "ADC.w", .imm16),
    (0x67, "ADC.d", .imm32), (0x68, "PLA", .impl), (0x69, "ADC.q", .imm64), (0x6A, "ROR", .acc),
    (0x6C, "JMP", .absInd), (0x6D, "ADC.q", .abs), (0x6E, "ROR", .abs), (0x70, "BVS", .rel),
    (0x73, "ADC.q", .srIY), (0x79, "ADC.q", .absY), (0x7A, "PLY", .impl), (0x7B, "TDC", .impl),
    (0x7C, "JMP", .absXInd), (0x7D, "ADC.q", .absX), (0x7E, "ROR", .absX), (0x80, "BRA", .rel) ]

/-- The rows of 0x82 to 0xFC: the byte, its mnemonic, that of ADC suffixed with the width, and its mode (30_encoding.md R67,
60_exceptions.md R231). -/
def eventRows3 : List (Byte × String × Mode) :=
  [
    (0x82, "BRL", .rel), (0x8A, "TXA", .impl), (0x90, "BCC", .rel), (0x98, "TYA", .impl),
    (0x9A, "TXS", .impl), (0x9B, "TXY", .impl), (0xA8, "TAY", .impl), (0xAA, "TAX", .impl),
    (0xB0, "BCS", .rel), (0xBA, "TSX", .impl), (0xBB, "TYX", .impl), (0xC2, "REP", .imm8),
    (0xCB, "WAI", .impl), (0xD0, "BNE", .rel), (0xD4, "PEI", .absInd), (0xDA, "PHX", .impl),
    (0xDB, "STP", .impl), (0xE2, "SEP", .imm8), (0xEB, "TBA", .impl), (0xF0, "BEQ", .rel),
    (0xF4, "PEA", .abs), (0xFA, "PLX", .impl), (0xFC, "JSR", .absXInd) ]

/-- The byte, the mnemonic and the mode of every row of the default map. -/
def eventRows : List (Byte × String × Mode) := eventRows1 ++ eventRows2 ++ eventRows3

/-- The operand address of a mode for the instruction at `s.pc`, in the default byte order and with `REL_BASE = 0`; none where the address is
unused (40_addressing_modes.md R82 to R92). -/
def eventAddress (m : Mode) (s : State) : Option QWord :=
  match m with
  | .impl | .acc => none
  | .imm8 | .imm16 | .imm32 | .imm64 | .abs => some (s.pc + 1)
  | .absX => some (s.pc + 1 + s.x)
  | .absY => some (s.pc + 1 + s.y)
  | .absInd => some (s.read64 (s.pc + 1))
  | .absXInd => some (s.read64 (s.pc + 1 + s.x))
  | .rel => some (plusInt (s.pc + 1) (s.read16 (s.pc + 1)).toInt)
  | .sr => some (plusInt s.sp (s.read8 (s.pc + 1)).toInt)
  | .srIY => some (s.read64 (plusInt s.sp (s.read8 (s.pc + 1)).toInt) + s.y)

/-! ### Who writes what, over all instructions -/

/-- The handlers that write A (10_state.md R10). -/
def writesA : Instr → Bool
  | .adcImm8 _ | .adcImm16 _ | .adcImm32 _ | .adcImm64 _ _ | .adcAbs _ | .adcAbsX _ | .adcAbsY _ | .adcSR _ | .adcSRIY _
  | .txa | .tya | .tsa | .tba | .tdc | .pla | .aslA | .lsrA | .rolA | .rorA | .mvn | .mvp => true
  | _ => false

/-- The handlers that write X (10_state.md R10). -/
def writesX : Instr → Bool
  | .tax | .tyx | .tsx | .plx => true
  | _ => false

/-- The handlers that write Y (10_state.md R10). -/
def writesY : Instr → Bool
  | .tay | .txy | .ply => true
  | _ => false

/-- The handlers that write SP: TXS, TAS, every push and pull, BRK, JSR, RTS (10_state.md R10). -/
def writesSP : Instr → Bool
  | .txs | .tas | .pha | .phx | .phy | .pla | .plx | .ply | .peaAbs _ | .peiInd _ _ | .perRel _ | .php | .plp
  | .brk | .jsrAbs _ | .jsrXInd _ | .rts => true
  | _ => false

/-- The handlers that store to memory (20_memory.md R48). -/
def stores : Instr → Bool
  | .jsrAbs _ | .jsrXInd _ | .brk | .pha | .phx | .phy | .peaAbs _ | .peiInd _ _ | .perRel _ | .php | .trbAbs _ | .tsbAbs _
  | .aslAbs _ | .aslAbsX _ | .lsrAbs _ | .lsrAbsX _ | .rolAbs _ | .rolAbsX _ | .rorAbs _ | .rorAbsX _ => true
  | _ => false

/-- REP, SEP and PLP, which write any flag (10_state.md R17). -/
def writesAllFlags : Instr → Bool
  | .repImm8 _ | .sepImm8 _ | .plp => true
  | _ => false

/-- ADC in any form. -/
def isAdc : Instr → Bool
  | .adcImm8 _ | .adcImm16 _ | .adcImm32 _ | .adcImm64 _ _ | .adcAbs _ | .adcAbsX _ | .adcAbsY _ | .adcSR _ | .adcSRIY _ => true
  | _ => false

/-- A shift in any form. -/
def isShift : Instr → Bool
  | .aslAbs _ | .aslAbsX _ | .lsrAbs _ | .lsrAbsX _ | .rolAbs _ | .rolAbsX _ | .rorAbs _ | .rorAbsX _
  | .aslA | .lsrA | .rolA | .rorA => true
  | _ => false

/-- The ten transfers that set flags (45_transfers.md R145). -/
def isFlagTransfer : Instr → Bool
  | .tax | .tay | .txa | .txy | .tya | .tyx | .tsa | .tsx | .tba | .tdc => true
  | _ => false

/-- The handlers the flag table of 10_state.md R17 lists for a flag. -/
def writesFlag (f : Flag) (i : Instr) : Bool :=
  writesAllFlags i ||
    match f with
    | .carry => isAdc i || isShift i
    | .zero =>
      isAdc i || isShift i || isFlagTransfer i ||
        (match i with
          | .pla | .plx | .ply | .trbAbs _ | .tsbAbs _ => true
          | _ => false)
    | .negative =>
      isAdc i || isShift i || isFlagTransfer i ||
        (match i with
          | .pla | .plx | .ply => true
          | _ => false)
    | .overflow => isAdc i
    | .interruptDisable | .decimal => decide (i = .brk)
    | .trap | .parity => false

/-- The instructions that may assign `pc`: branches, JMP, JSR, RTS, BRK, MVN, MVP (10_state.md R15). COP's assignment is the
address after its payload. -/
def assignsPC : Instr → Bool
  | .bcc _ | .bcs _ | .beq _ | .bne _ | .bmi _ | .bpl _ | .bvc _ | .bvs _ | .bra _ | .brl _
  | .jmpAbs _ | .jmpInd _ _ | .jmpXInd _ | .jsrAbs _ | .jsrXInd _ | .rts | .brk | .mvn | .mvp => true
  | _ => false

/-- The instructions whose every execution truncates `pc` to 16 bits: JMP, JSR, RTS, BRK and the two unconditional branches
(10_state.md R15). -/
def alwaysTruncates : Instr → Bool
  | .bra _ | .brl _ | .jmpAbs _ | .jmpInd _ _ | .jmpXInd _ | .jsrAbs _ | .jsrXInd _ | .rts | .brk => true
  | _ => false

/-- The stop reason an instruction leaves in a core whose reason was `r` (60_exceptions.md R210). -/
def stopAfter (i : Instr) (r : StopReason) : StopReason :=
  match i with
  | .cop _ _ _ => .coprocessor
  | .stp => .stop
  | .wai => .wait
  | _ => r

/-- A handler's own cycles: 3 or 2 for a branch, 8 for BRK, `HCYC` otherwise (40_addressing_modes.md R81). -/
def handlerCost (h : Handler) (s : State) : Nat :=
  match h with
  | .bcc => if s.flag .carry then 2 else 3
  | .bcs => if s.flag .carry then 3 else 2
  | .beq => if s.flag .zero then 3 else 2
  | .bne => if s.flag .zero then 2 else 3
  | .bmi => if s.flag .negative then 3 else 2
  | .bpl => if s.flag .negative then 2 else 3
  | .bvc => if s.flag .overflow then 2 else 3
  | .bvs => if s.flag .overflow then 3 else 2
  | .bra | .brl => 3
  | .brk => 8
  | _ => Config.hcyc h

/-! ### Two runs, and sequences of host calls -/

/-- An outcome with its next state replaced. -/
def mapNext (f : State → State) : Host.Outcome State Fault Refusal → Host.Outcome State Fault Refusal
  | .next t => .next (f t)
  | .fault r => .fault r
  | .refused r => .refused r

/-- The state with the pending-interrupt bit and the trace bit given. -/
def withInputs (i t : Bool) (s : State) : State := { s with interrupted := i, trace := t }

/-- No `step` of the sequence executes a COP: a running core meets none at its `pc`. -/
def NoCop : List HostCall → State → Prop
  | [], _ => True
  | c :: r, s =>
    (c = .step → s.stop = .running → ∀ size op words rest, fetchInstr s.mem s.pc ≠ .ok (.cop size op words, rest)) ∧
      NoCop r (hostCall c s).2

/-- Every `reset` of the sequence gives 128 zero-cache entries. -/
def ResetsWhole (cs : List HostCall) : Prop := ∀ rs t, .reset rs t ∈ cs → rs.z.length = 128

end Sys2Proof.Safety
end

