-- ==== Sys2Proof/Certificates/Slice0/Obligations.lean ====
section
/-! DEFINITION. The statements for the provers. -/

open Sys2Proof Sys2Proof.Machine Sys2Proof.Safety

/-- O1. For every well-formed instruction i, every operand at every value, and any bytes r after it, decode (encode i ++ r) is (i, r). The opcode values are the default map of the spec (decisions D1 to D3, log 7). Source: 30_encoding.md sections 1 to 4 (R60, R61, R62, R64, R67). -/
def Obligations.DecodeOfEncodeIsTheInstruction : Prop :=
  ∀ (i : Instr) (r : List Byte), i.wf = true → decode (encode i ++ r) = .ok (i, r)

/-- O2. If decode bs answers (i, r) then i is well-formed and bs is encode i followed by r: each byte string has one meaning and no bit of it is dropped. It rests on the default map and byte order (logs 5 and 7). Source: 30_encoding.md sections 1 to 5 (R60, R61, R64, R69). -/
def Obligations.EveryDecodedByteStringIsAnEncoding : Prop :=
  ∀ (bs : List Byte) (i : Instr) (r : List Byte), decode bs = .ok (i, r) → i.wf = true ∧ encode i ++ r = bs

/-- O3. For every byte b and any bytes r, decode (b :: r) is the error unassigned b exactly when b is the byte of no row of the default map, and the bytes rejected so number 185. The map is the spec's default (log 7). Source: 30_encoding.md section 5 (R68). -/
def Obligations.UnassignedBytesAreExactlyTheUnlistedOnes : Prop :=
  (∀ (b : Byte) (r : List Byte), decode (b :: r) = .error (.unassigned b) ↔ b ∉ opcodeMap.map Prod.fst) ∧
    ((List.range 256).filter fun n =>
      decide (decode [BitVec.ofNat 8 n] = .error (.unassigned (BitVec.ofNat 8 n)))).length = 185

/-- O4. Seven byte strings of the spec's examples and test vectors (E8, B15, J2, T2, E11, F1, E6), in seven of the formats, decode to the instruction each stands for. Source: 95_test_vectors.md sections 3, 5, 6, 10. -/
def Obligations.WordsWrittenFromTheSpecDecode : Prop :=
  decode [0x65, 0x34, 0x12] = .ok (.adcImm16 0x1234, []) ∧
    decode [0x82, 0x00, 0x80] = .ok (.brl 0x8000, []) ∧
    decode [0x6C, 0, 0x30, 0, 0, 0, 0, 0, 0, 0, 0, 0, 0, 0, 0, 0, 0] = .ok (.jmpInd 0x3000 0, []) ∧
    decode [0x02, 0x02, 0x05, 0x34, 0x12, 0x78, 0x56, 0xDB] = .ok (.cop 2 5 [0x1234, 0x5678], [0xDB]) ∧
    decode [0x63, 0x02] = .ok (.adcSR 2, []) ∧
    decode [0xC2, 0x09] = .ok (.repImm8 9, []) ∧
    decode [0xAA] = .ok (.tax, [])

/-- O5. For every state whose stop reason is RUNNING and every well-formed i: if the bytes from pc on are encode i, then step s = exec i s. Nothing is added around exec: exec itself moves past the opcode byte and the operand bytes. Source: 40_addressing_modes.md section 1 (R80), 30_encoding.md section 4 (R65). -/
def Obligations.StepRunsTheInstructionAtPc : Prop :=
  ∀ (s : State) (i : Instr), s.stop = .running → i.wf = true →
    s.mem.readBytes (encode i).length s.pc = encode i → step s = exec i s

/-- O6. For every state, step s equals facadeStep at ENDIAN = little, REL_BASE = 0 and the default map, the machine that reads operands through the memory facade when the spec says (R80 to R92). So decoding operands at fetch is no departure (log 10). The three parameters are at the spec's defaults (logs 5, 6, 7). Source: 40_addressing_modes.md sections 1 and 2, 30_encoding.md section 4. -/
def Obligations.StepIsTheFacadeMachine : Prop :=
  ∀ s : State, step s = facadeStep endian relBase opcodeMap s

/-- O7. A stopped core's step answers a next state; a running core's step answers a next state when the byte at pc has a row in the map and otherwise the fault IllegalOpcode(byte, pc); it never refuses. Halt-and-fault is the spec's decision D4 (log 9). Source: 60_exceptions.md section 3, 30_encoding.md section 5. -/
def Obligations.StepOutcomesByOpcodeByte : Prop :=
  ∀ s : State,
    (s.stop ≠ .running ∨ s.read8 s.pc ∈ opcodeMap.map Prod.fst → ∃ t, step s = .next t) ∧
    (s.stop = .running ∧ s.read8 s.pc ∉ opcodeMap.map Prod.fst →
      step s = .fault (.illegalOpcode (s.read8 s.pc) s.pc))

/-- O8. For every state whose stop reason is not RUNNING and every n, n steps answer that same state, the step makes no facade call and emits no trace event. Source: R211. -/
def Obligations.StoppedCoreDoesNothingHoweverOftenStepped : Prop :=
  ∀ (s : State) (n : Nat), s.stop ≠ .running →
    Sys2Proof.core.run n s = .next s ∧ stepAccesses s = [] ∧ stepEvent s = none

/-- O9. For every state with Inv, if step answers a next state then Inv holds of it: memory in canonical form, 128 zero-cache entries, and a capture of exactly size words. Source: 10_state.md sections 5 and 6 (R20, R22), 20_memory.md section 7. -/
def Obligations.StepKeepsTheInvariant : Prop :=
  ∀ s t : State, Inv s → step s = .next t → Inv t

/-- O10. State.reset meets Inv (its register values are the model's choice, log 1), and so does reset(t) for every RESET_STATE with 128 zero-cache entries on every state whose memory is canonical. Source: 10_state.md section 7 (R26), 70_reset_and_hazards.md section 1. -/
def Obligations.ResetMeetsTheInvariant : Prop :=
  Inv State.reset ∧
    ∀ (rs : ResetState) (t : Bool) (s : State), rs.z.length = 128 → s.mem.wf = true → Inv (hostCall (.reset rs t) s).2

/-- O11. For every sequence of host calls and host writes to memory whose resets give 128 zero-cache entries, and every state with Inv, the state after the sequence has Inv. Source: 20_memory.md section 7, 60_exceptions.md sections 1, 2 and 5, 10_state.md section 6. -/
def Obligations.HostCallsKeepTheInvariant : Prop :=
  ∀ (cs : List HostCall) (s : State), ResetsWhole cs → Inv s → Inv (hostCalls cs s)

/-- O12. If step answers a next state, its B, Z, interrupted, trace and illegal are those before: B has no writer (R10), no instruction reaches Z (decision D28), nothing consumes the pending interrupt (decision D22). Source: 10_state.md sections 1, 5 and 6, 60_exceptions.md section 4. -/
def Obligations.NoStepTouchesHiddenState : Prop :=
  ∀ s t : State, step s = .next t → t.b = s.b ∧ SameHidden s t

/-- O13. For every state and every two bits, step from the state with those bits is step from the state, with the bits carried over into the next state: no step tests interrupted (decision D22) and trace has no effect on any other state. Source: 60_exceptions.md section 4 (R222), 10_state.md section 6 (R25). -/
def Obligations.StepIgnoresPendingInterruptAndTrace : Prop :=
  ∀ (s : State) (i t : Bool), step (withInputs i t s) = mapNext (withInputs i t) (step s)

/-- O14. For every instruction and state: in the next state of exec the stop reason is COPROCESSOR after COP, STOP after STP, WAIT after WAI and unchanged otherwise, and the COP capture is unchanged unless the instruction is a COP. Source: 60_exceptions.md section 1 (R210). -/
def Obligations.OnlyHaltingInstructionsChangeTheController : Prop :=
  ∀ (i : Instr) (s t : State), exec i s = .next t →
    t.stop = stopAfter i s.stop ∧ (t.cop ≠ s.cop → ∃ size op words, i = .cop size op words)

/-- O15. In the next state of any instruction, A, X, Y, SP and D are unchanged unless the instruction is one the tables of 10_state.md list as a writer of that register (A by MVN and MVP by decision D23; D by TCD by decision D24), and B is unchanged. Source: 10_state.md section 1, 45_transfers.md. -/
def Obligations.RegistersChangeOnlyByTheirWriters : Prop :=
  ∀ (i : Instr) (s t : State), exec i s = .next t →
    (t.a ≠ s.a → writesA i = true) ∧ (t.x ≠ s.x → writesX i = true) ∧ (t.y ≠ s.y → writesY i = true) ∧
    (t.sp ≠ s.sp → writesSP i = true) ∧ (t.d ≠ s.d → i = .tcd) ∧ t.b = s.b

/-- O16. In the next state of any instruction, a flag is unchanged unless the instruction is one that the table of 10_state.md R17 lists under "set or cleared by" for that flag (the column is the spec's derivation; bit numbers by decision D8, log 18). Source: 10_state.md section 3. -/
def Obligations.FlagsChangeOnlyByTheirWriters : Prop :=
  ∀ (i : Instr) (s t : State) (f : Flag), exec i s = .next t → t.flag f ≠ s.flag f → writesFlag f i = true

/-- O17. If any byte of memory differs in the next state of an instruction, the instruction is one that the access table of 20_memory.md R48 gives a write. Source: 20_memory.md section 5. -/
def Obligations.MemoryChangesOnlyByStores : Prop :=
  ∀ (i : Instr) (s t : State) (k : QWord), exec i s = .next t → t.read8 k ≠ s.read8 k → stores i = true

/-- O18. For every state whose step answers a next state, the next memory is the memory before with exactly the writes of the step's list of facade calls (20_memory.md R48), applied in that order. Flat memory is the spec's default (log 4); that the list is a function of the state before the step is the model's reading (log 13, DEDUCED). Source: 20_memory.md sections 5 and 7. -/
def Obligations.MemoryAfterAStepIsItsWritesInOrder : Prop :=
  ∀ s t : State, step s = .next t → t.mem = applyWrites s.mem (stepAccesses s)

/-- O19. For every instruction with its row of the map, cycles after exec is cycles before plus FETCH_CYC plus the base cycles of the row's mode plus the handler's cycles: 3 or 2 for a branch taken or not, 8 for BRK, HCYC otherwise. FETCH_CYC and HCYC are free values (decision D26, log 8). Source: 40_addressing_modes.md section 1 (R81), 70_reset_and_hazards.md section 4. -/
def Obligations.CyclesAreFetchPlusModePlusHandler : Prop :=
  ∀ (i : Instr) (e : Entry) (s t : State), opcodeMap.lookup i.opcode = some e → exec i s = .next t →
    Charged (baseCycles e.mode + handlerCost e.handler s) s t

/-- O20. After exec of a well-formed instruction tpc is the address it stood at (decision D25), and pc is that address plus the length of its encoding unless it is a branch, JMP, JSR, RTS, BRK, MVN or MVP (decision D27 for the opcode byte). Source: 10_state.md section 2, 40_addressing_modes.md section 1. -/
def Obligations.ProgramCounterAdvancesByTheLength : Prop :=
  ∀ (i : Instr) (s t : State), i.wf = true → exec i s = .next t →
    t.tpc = s.pc ∧ (assignsPC i = false → t.pc = s.pc + BitVec.ofNat 64 (encode i).length)

/-- O21. After exec of JMP, JSR, RTS, BRK, BRA or BRL in any form the program counter is below 2^16 (BRK by decision D19, log 20). The conditional branches are stated with their conditions elsewhere. Source: 10_state.md section 2. -/
def Obligations.ControlTransfersLandBelow64K : Prop :=
  ∀ (i : Instr) (s t : State), alwaysTruncates i = true → exec i s = .next t → t.pc.toNat < 65536

/-- O22. For every state and every immediate, each of the four immediate forms completes: A, C, V, N, Z are those of R100 on the zero-extended immediate (decisions D15, D16), every other register, flag, byte and controller field is unchanged, and pc, tpc and cycles advance by the form. Source: 41_adc.md (R100 to R104), 92_eei_decisions.md D15, D16. -/
def Obligations.AdcImmediateForms : Prop :=
  ∀ s : State,
    (∀ i, Completes (.adcImm8 i) s fun t => AdcEffect (BitVec.ofNat 64 i.toNat) s t ∧ Advanced 2 (Config.hcyc .adc) s t) ∧
    (∀ i, Completes (.adcImm16 i) s fun t => AdcEffect (BitVec.ofNat 64 i.toNat) s t ∧ Advanced 3 (1 + Config.hcyc .adc) s t) ∧
    (∀ i, Completes (.adcImm32 i) s fun t => AdcEffect (BitVec.ofNat 64 i.toNat) s t ∧ Advanced 5 (1 + Config.hcyc .adc) s t) ∧
    (∀ i x, Completes (.adcImm64 i x) s fun t => AdcEffect i s t ∧ Advanced 17 (1 + Config.hcyc .adc) s t)

/-- O23. For every state and operand, each of the five memory forms completes with the effect of R100 on the qword at its effective address: the operand field, that plus X, that plus Y, SP plus the signed displacement, and the pointer there plus Y (decisions D12, D16, D40). Source: 41_adc.md (R100, R104), 40_addressing_modes.md section 2. -/
def Obligations.AdcMemoryForms : Prop :=
  ∀ s : State,
    (∀ f, Completes (.adcAbs f) s fun t => AdcEffect (s.read64 (s.pc + 1)) s t ∧ Advanced 17 (2 + Config.hcyc .adc) s t) ∧
    (∀ f, Completes (.adcAbsX f) s fun t =>
      AdcEffect (s.read64 (s.pc + 1 + s.x)) s t ∧ Advanced 17 (2 + Config.hcyc .adc) s t) ∧
    (∀ f, Completes (.adcAbsY f) s fun t =>
      AdcEffect (s.read64 (s.pc + 1 + s.y)) s t ∧ Advanced 17 (2 + Config.hcyc .adc) s t) ∧
    (∀ d, Completes (.adcSR d) s fun t =>
      AdcEffect (s.read64 (plusInt s.sp d.toInt)) s t ∧ Advanced 2 (1 + Config.hcyc .adc) s t) ∧
    (∀ d, Completes (.adcSRIY d) s fun t =>
      AdcEffect (s.read64 (s.read64 (plusInt s.sp d.toInt) + s.y)) s t ∧ Advanced 2 (3 + Config.hcyc .adc) s t)

/-- O24. For every accumulator, operand and carry in, the overflow of ADC (operands share a sign and the uncorrected result's sign differs) is the two's-complement sum lying outside -2^63 to 2^63 - 1. Source: 41_adc.md (R100, R105). -/
def Obligations.AdcOverflowIsSignedOverflow : Prop :=
  ∀ (a m : QWord) (c : Bool),
    adcOverflow a m (BitVec.ofNat 64 (adcRaw a m c)) =
      decide (a.toInt + m.toInt + bit c < -(2 ^ 63) ∨ 2 ^ 63 ≤ a.toInt + m.toInt + bit c)

/-- O25. If A and the operand hold sixteen decimal digits and each pair of digits sums to at most 14, so that no digit sum reaches 16 with a carry, the corrected sum holds sixteen decimal digits and their number is the sum of the two numbers and the carry modulo 10^16. It rests on the sequential reading (decision D16). Source: 41_adc.md (corner cases of R100), 92_eei_decisions.md D16. -/
def Obligations.DecimalCorrectionAddsShortDigits : Prop :=
  ∀ (a m : QWord) (c : Bool),
    (∀ i < 16, digit a i ≤ 9 ∧ digit m i ≤ 9 ∧ digit a i + digit m i ≤ 14) →
    (∀ i < 16, digit (decimalCorrect (BitVec.ofNat 64 (adcRaw a m c))) i ≤ 9) ∧
    bcdValue (decimalCorrect (BitVec.ofNat 64 (adcRaw a m c))) = (bcdValue a + bcdValue m + bit c) % 10 ^ 16

/-- O26. For every condition, effective address and state: taken, pc becomes the low 16 bits of the address and cycles go up by 3; not taken, pc stays and cycles go up by 2; no flag, register, byte or controller field changes; with the Relative resolver the step adds FETCH_CYC + 1 + 3 or 2. Each of the ten branches is this handler on its own flag (R111 to R120), after the Relative resolver. The pairing with that resolver is the default map's (log 7), the base of the displacement log 6, FETCH_CYC a free value (log 8). Source: 42_branches_jumps.md section 1 (R110), 42_branches_jumps.md section 1 (R111 to R120), 40_addressing_modes.md section 2 (R90), 92_eei_decisions.md D1, D11, D26. -/
def Obligations.BranchHandlerTruncatesAndCharges : Prop :=
  (∀ (c : Bool) (ea : QWord) (s : State),
      (doBranch c ea s).pc = (if c then low16 ea else s.pc) ∧
      (doBranch c ea s).cycles = s.cycles + BitVec.ofNat 64 (if c then 3 else 2) ∧
      (doBranch c ea s).tpc = s.tpc ∧ Frame [] [] s (doBranch c ea s) ∧ SameBytes s (doBranch c ea s) ∧
      Charged (1 + if c then 3 else 2) s (doBranch c ea (s.fetched.resolved .rel))) ∧
    ∀ (d : Word) (s : State),
      let ran := fun (c : Bool) => Host.Outcome.next (φ := Fault) (ρ := Refusal)
        (doBranch c (eaRel relBase d s.fetched) (s.fetched.resolved .rel))
      exec (.bcc d) s = ran (!s.flag .carry) ∧ exec (.bcs d) s = ran (s.flag .carry) ∧
      exec (.beq d) s = ran (s.flag .zero) ∧ exec (.bne d) s = ran (!s.flag .zero) ∧
      exec (.bmi d) s = ran (s.flag .negative) ∧ exec (.bpl d) s = ran (!s.flag .negative) ∧
      exec (.bvc d) s = ran (!s.flag .overflow) ∧ exec (.bvs d) s = ran (s.flag .overflow) ∧
      exec (.bra d) s = ran true ∧ exec (.brl d) s = ran true

/-- O27. For every state and displacement each conditional branch completes: taken, pc is the low 16 bits of the displacement field's address plus the signed displacement; not taken, pc is three further; cycles by FETCH_CYC + 1 + 3 or 2; every register, flag and byte unchanged. REL_BASE = 0 is decision D11 (log 6). Source: 42_branches_jumps.md section 1 (R110 to R118), 92_eei_decisions.md D11. -/
def Obligations.ConditionalBranches : Prop :=
  ∀ (s : State) (d : Word),
    Completes (.bcc d) s (BranchEffect (!s.flag .carry) d s) ∧ Completes (.bcs d) s (BranchEffect (s.flag .carry) d s) ∧
    Completes (.beq d) s (BranchEffect (s.flag .zero) d s) ∧ Completes (.bne d) s (BranchEffect (!s.flag .zero) d s) ∧
    Completes (.bmi d) s (BranchEffect (s.flag .negative) d s) ∧
    Completes (.bpl d) s (BranchEffect (!s.flag .negative) d s) ∧
    Completes (.bvc d) s (BranchEffect (!s.flag .overflow) d s) ∧
    Completes (.bvs d) s (BranchEffect (s.flag .overflow) d s)

/-- O28. For every state and displacement BRA and BRL complete with the effect of a taken branch, and answer the same state but for nothing (decision D34: identical; REL_BASE = 0 is decision D11, log 6). Source: 42_branches_jumps.md section 1 (R119, R120), 92_eei_decisions.md D11, D34. -/
def Obligations.UnconditionalBranches : Prop :=
  ∀ (s : State) (d : Word),
    Completes (.bra d) s (BranchEffect true d s) ∧ Completes (.brl d) s (BranchEffect true d s) ∧
    exec (.bra d) s = exec (.brl d) s

/-- O29. For every state and operand each JMP form completes: pc is the low 16 bits of the operand field's own address, of the pointer in the field, or of the pointer read at the field plus X (decision D40); registers, flags and memory are unchanged. Source: 42_branches_jumps.md section 2 (R121), 40_addressing_modes.md section 2. -/
def Obligations.JumpsTruncateTheirTarget : Prop :=
  ∀ s : State,
    (∀ f, Completes (.jmpAbs f) s fun t =>
      t.pc = low16 (s.pc + 1) ∧ Ran (2 + Config.hcyc .jmp) s t ∧ Frame [] [] s t ∧ SameBytes s t) ∧
    (∀ p x, Completes (.jmpInd p x) s fun t =>
      t.pc = low16 p ∧ Ran (4 + Config.hcyc .jmp) s t ∧ Frame [] [] s t ∧ SameBytes s t) ∧
    (∀ f, Completes (.jmpXInd f) s fun t =>
      t.pc = low16 (s.read64 (s.pc + 1 + s.x)) ∧ Ran (4 + Config.hcyc .jmp) s t ∧ Frame [] [] s t ∧ SameBytes s t)

/-- O30. For every state and operand both JSR forms complete: the word at the old SP is the low word of pc + 17, SP goes down by 2, pc is the low 16 bits of the effective address, no other byte, register or flag changes. Which word is pushed is decision D18, the step of SP decision D13 (log 20). Source: 42_branches_jumps.md section 2 (R122), 92_eei_decisions.md D13, D18. -/
def Obligations.JsrPushesTheNextAddress : Prop :=
  ∀ s : State,
    let pushed := fun (cyc : Nat) (t : State) =>
      (t.read16 s.sp).toNat = (s.pc + 17).toNat % 65536 ∧ t.sp = s.sp - 2 ∧ SameBytesBut s.sp 2 s t ∧ Frame [.sp] [] s t ∧
        Ran (cyc + Config.hcyc .jsr) s t
    (∀ f, Completes (.jsrAbs f) s fun t => t.pc = low16 (s.pc + 1) ∧ pushed 2 t) ∧
    (∀ f, Completes (.jsrXInd f) s fun t => t.pc = low16 (s.read64 (s.pc + 1 + s.x)) ∧ pushed 4 t)

/-- O31. For every state RTS completes: pc is the zero-extended word at SP + 2, SP goes up by 2, registers, flags and memory are otherwise unchanged. No adjustment of the address is decision D18, the step of SP decision D13 (log 20). Source: 42_branches_jumps.md section 2 (R123), 92_eei_decisions.md D13, D18. -/
def Obligations.RtsPullsThePc : Prop :=
  ∀ s : State, Completes .rts s fun t =>
    t.pc.toNat = (s.read16 (s.sp + 2)).toNat ∧ t.sp = s.sp + 2 ∧ Ran (Config.hcyc .rts) s t ∧ Frame [.sp] [] s t ∧ SameBytes s t

/-- O32. For every state and operand, RTS in the state after either JSR form completes with SP as before the JSR and pc the low 16 bits of the address after the JSR (decisions D13, D18, log 20). Source: 42_branches_jumps.md section 2, 70_reset_and_hazards.md section 3. -/
def Obligations.RtsReturnsFromJsr : Prop :=
  ∀ (s t : State) (f : Field), exec (.jsrAbs f) s = .next t ∨ exec (.jsrXInd f) s = .next t →
    Completes .rts t fun u => u.sp = s.sp ∧ u.pc = low16 (s.pc + 17)

/-- O33. For every state BRK completes: the word at the old SP is the low word of pc + 1, the byte at SP - 2 is P as it was, SP goes down by 3, I is set, D cleared, pc is the word at 0xFFE6 after the pushes, the core keeps its stop reason, 8 cycles; no other flag, register or byte changes. Widths by decisions D14, D18, D19 (log 20). Source: 43_traps_halts.md (R130), 60_exceptions.md section 6 (R224), 92_eei_decisions.md D14, D18, D19. -/
def Obligations.BrkEntersTheTrap : Prop :=
  ∀ s : State, Completes .brk s fun t =>
    (t.read16 s.sp).toNat = (s.pc + 1).toNat % 65536 ∧ t.read8 (s.sp - 2) = s.p ∧ t.sp = s.sp - 3 ∧
    t.flag .interruptDisable = true ∧ t.flag .decimal = false ∧ t.pc.toNat = (t.read16 0xFFE6).toNat ∧
    (∀ k, k ≠ s.sp → k ≠ s.sp + 1 → k ≠ s.sp - 2 → t.read8 k = s.read8 k) ∧
    Frame [.sp] [.interruptDisable, .decimal] s t ∧ Ran 8 s t

/-- O34. For every state: after BRK, PLP completes with P as before the BRK, and then RTS completes with P and SP as before the BRK and pc the low 16 bits of the address after it. The spec derives this return; there is no return-from-interrupt instruction (N6). Source: 60_exceptions.md section 7, 91_not_in_source.md N6. -/
def Obligations.PlpThenRtsReturnsFromBrk : Prop :=
  ∀ s t : State, exec .brk s = .next t → Completes .plp t fun u =>
    u.p = s.p ∧ Completes .rts u fun v => v.p = s.p ∧ v.sp = s.sp ∧ v.pc = low16 (s.pc + 1)

/-- O35. For every state, size, opcode and words COP completes: the capture is exactly those, whatever was captured before; the stop reason is COPROCESSOR; pc is 3 + 2*size further, not truncated; no register, flag or byte changes. The address of the size byte is decision D21 (log 20). Source: 43_traps_halts.md (R131), 60_exceptions.md section 6 (R225), 92_eei_decisions.md D21. -/
def Obligations.CopCapturesAndStops : Prop :=
  ∀ (s : State) (size op : Byte) (words : List Word), Completes (.cop size op words) s fun t =>
    t.cop = some ⟨size, op, words⟩ ∧ t.stop = .coprocessor ∧ Advanced (3 + 2 * size.toNat) (Config.hcyc .cop) s t ∧
    SameRegsBut [] s t ∧ SameFlagsBut [] s t ∧ SameHidden s t ∧ SameBytes s t

/-- O36. For every running state with the byte 0x02 at pc, step answers a next state whose capture has the byte at pc + 1 as size, the byte at pc + 2 as opcode and, word by word, the words at pc + 3 + 2i. The opcode byte is the default map's (log 7), the layout decision D21. Source: 43_traps_halts.md (R131), 30_encoding.md section 3 (R64). -/
def Obligations.SteppedCopCapturesTheMemoryBlock : Prop :=
  ∀ s : State, s.stop = .running → s.read8 s.pc = 0x02 →
    ∃ t c, step s = .next t ∧ t.cop = some c ∧ t.stop = .coprocessor ∧
      c.size = s.read8 (s.pc + 1) ∧ c.opcode = s.read8 (s.pc + 2) ∧ c.words.length = c.size.toNat ∧
      ∀ i < c.size.toNat, c.words[i]? = some (s.read16 (s.pc + 3 + BitVec.ofNat 64 (2 * i)))

/-- O37. For every state STP and WAI complete with stop reason STOP and WAIT, pc one further, and no register, flag, byte, capture or pending interrupt changed; WAI does not look at the pending interrupt (decision D22, log 16). Source: 43_traps_halts.md (R132, R133), 92_eei_decisions.md D22. -/
def Obligations.StpAndWaiHalt : Prop :=
  ∀ s : State,
    (Completes .stp s fun t => t.stop = .stop ∧ Advanced 1 (Config.hcyc .stp) s t ∧ t.cop = s.cop ∧
      SameRegsBut [] s t ∧ SameFlagsBut [] s t ∧ SameHidden s t ∧ SameBytes s t) ∧
    (Completes .wai s fun t => t.stop = .wait ∧ Advanced 1 (Config.hcyc .wai) s t ∧ t.cop = s.cop ∧
      SameRegsBut [] s t ∧ SameFlagsBut [] s t ∧ SameHidden s t ∧ SameBytes s t)

/-- O38. For every state MVN and MVP complete: A[15:0] is one less modulo 2^16 and A[63:16] unchanged, pc is the instruction's own address unless A[15:0] was 0 and then one further; X, Y, every flag and every byte are unchanged. The count register and the absence of a transfer are decision D23 (log 17). Source: 44_block_move.md (R140, R141), 92_eei_decisions.md D23. -/
def Obligations.BlockMoveStepCountsDown : Prop :=
  ∀ s : State, Completes .mvn s (CountedDown (Config.hcyc .mvn) s) ∧ Completes .mvp s (CountedDown (Config.hcyc .mvp) s)

/-- O39. For every state with A[15:0] = n: after each of the first n executions of MVN (MVP) pc is back at the instruction; after n + 1 A[15:0] is 0xFFFF, A[63:16], X, Y, SP, flags and memory are as at the start and pc is one further. It rests on decision D23 (log 17). Source: 44_block_move.md (corner cases of R140), 92_eei_decisions.md D23. -/
def Obligations.BlockMoveRepeatsCountPlusOneTimes : Prop :=
  ∀ (i : Instr) (s : State), i = .mvn ∨ i = .mvp →
    (∀ k ≤ s.a.toNat % 65536, ∃ t, execN i k s = .next t ∧ t.pc = s.pc) ∧
    ∃ t, execN i (s.a.toNat % 65536 + 1) s = .next t ∧ NarrowWrite s.a t.a 0xFFFF ∧ t.pc = s.pc + 1 ∧
      Frame [.a] [] s t ∧ SameBytes s t

/-- O40. For every state each transfer completes: the destination holds the source's 64 bits; TAX TAY TXA TXY TYA TYX TSA TSX TBA TDC set N to bit 63 and Z to all bits zero; TXS TAS TCD write no flag; the source, the other registers and flags and every byte are unchanged; pc is one further, tpc is the instruction's address and HCYC of the handler is charged. The register D of TCD and TDC is decision D24 (log 19), tpc and the step of pc decisions D25 and D27 (log 11). Source: 45_transfers.md (R145 to R158), 92_eei_decisions.md D24, D25, D27. -/
def Obligations.TransfersCopyAllSixtyFourBits : Prop :=
  ∀ s : State,
    Completes .tax s (LoadedNZ .x s.a (Config.hcyc .tax) s) ∧ Completes .tay s (LoadedNZ .y s.a (Config.hcyc .tay) s) ∧
    Completes .txa s (LoadedNZ .a s.x (Config.hcyc .txa) s) ∧ Completes .txy s (LoadedNZ .y s.x (Config.hcyc .txy) s) ∧
    Completes .tya s (LoadedNZ .a s.y (Config.hcyc .tya) s) ∧ Completes .tyx s (LoadedNZ .x s.y (Config.hcyc .tyx) s) ∧
    Completes .tsa s (LoadedNZ .a s.sp (Config.hcyc .tsa) s) ∧ Completes .tsx s (LoadedNZ .x s.sp (Config.hcyc .tsx) s) ∧
    Completes .tba s (LoadedNZ .a s.b (Config.hcyc .tba) s) ∧ Completes .tdc s (LoadedNZ .a s.d (Config.hcyc .tdc) s) ∧
    Completes .txs s (Loaded .sp s.x (Config.hcyc .txs) s) ∧ Completes .tas s (Loaded .sp s.a (Config.hcyc .tas) s) ∧
    Completes .tcd s (Loaded .d s.a (Config.hcyc .tcd) s)

/-- O41. pull_n adds n to SP and returns the value read at the new SP, for n = 1 and 2; for every value and every SP, a word push then a word pull returns the word and restores SP, in either byte order of the facade, and the same for bytes. That SP steps by 2 and by 1 is decision D13 (log 20). Source: 46_stack.md section 1 (R165, R166), 92_eei_decisions.md D13. -/
def Obligations.PullAfterPushReturnsTheValue : Prop :=
  ∀ s : State,
    (s.pull16.sp = s.sp + 2 ∧ s.pull16Value = s.read16 s.pull16.sp ∧ s.pull8.sp = s.sp + 1 ∧ s.pull8Value = s.read8 s.pull8.sp) ∧
    (∀ (v : Word) (o : Endian), (s.push16 v o).pull16Value o = v ∧ (s.push16 v o).pull16.sp = s.sp) ∧
    (∀ v : Byte, (s.push8 v).pull8Value = v ∧ (s.push8 v).pull8.sp = s.sp)

/-- O42. For every state PHA, PHX and PHY complete: the word at the old SP is the low 16 bits of the register, SP goes down by 2 (decision D13, log 20), every other byte, register and flag is unchanged. Source: 46_stack.md section 2 (R167 to R169), 92_eei_decisions.md D13. -/
def Obligations.RegisterPushesStoreTheLowWord : Prop :=
  ∀ s : State,
    Completes .pha s (PushedWord (BitVec.ofNat 16 s.a.toNat) 1 (Config.hcyc .pha) s) ∧
    Completes .phx s (PushedWord (BitVec.ofNat 16 s.x.toNat) 1 (Config.hcyc .phx) s) ∧
    Completes .phy s (PushedWord (BitVec.ofNat 16 s.y.toNat) 1 (Config.hcyc .phy) s)

/-- O43. For every state and operand PEA, PEI and PER complete: the word stored at the old SP is the word in memory at the operand field, the word in memory at the pointer, and the low word of the displacement field's address plus the signed displacement; SP goes down by 2; nothing else changes. Decisions D36, D13 and D11 (logs 6, 20). Source: 46_stack.md section 3, 92_eei_decisions.md D11, D13, D36. -/
def Obligations.EffectiveAddressPushes : Prop :=
  ∀ s : State,
    (∀ f, Completes (.peaAbs f) s (PushedWord (s.read16 (s.pc + 1)) 17 (2 + Config.hcyc .pea) s)) ∧
    (∀ p x, Completes (.peiInd p x) s (PushedWord (s.read16 p) 17 (4 + Config.hcyc .pei) s)) ∧
    (∀ d, Completes (.perRel d) s
      (PushedWord (BitVec.ofNat 16 (plusInt (s.pc + 1) d.toInt).toNat) 3 (1 + Config.hcyc .per) s))

/-- O44. For every state PLA, PLX and PLY complete: the register's low word is the word at SP + 2, bits 63 to 16 are kept (decision D10), N is bit 15 and Z the word being zero (decision D17), SP goes up by 2 (decision D13); nothing else changes (log 20). Source: 46_stack.md section 2 (R170 to R172), 92_eei_decisions.md D10, D13, D17. -/
def Obligations.RegisterPullsKeepTheUpperBits : Prop :=
  ∀ s : State, Completes .pla s (PulledWord .a (Config.hcyc .pla) s) ∧ Completes .plx s (PulledWord .x (Config.hcyc .plx) s) ∧
    Completes .ply s (PulledWord .y (Config.hcyc .ply) s)

/-- O45. For every state PHP completes with the byte P at the old SP and SP down by 1, and PLP with P the byte at SP + 1, all eight bits, and SP up by 1; nothing else changes. One byte is decision D14, the step of SP decision D13 (log 20). Source: 46_stack.md section 4 (R176, R177), 92_eei_decisions.md D13, D14. -/
def Obligations.FlagsPushAndPullAsOneByte : Prop :=
  ∀ s : State,
    (Completes .php s fun t => t.read8 s.sp = s.p ∧ t.sp = s.sp - 1 ∧ SameBytesBut s.sp 1 s t ∧ Frame [.sp] [] s t ∧
      Advanced 1 (Config.hcyc .php) s t) ∧
    (Completes .plp s fun t => t.p = s.read8 (s.sp + 1) ∧ t.sp = s.sp + 1 ∧ SameBytes s t ∧ SameRegsBut [.sp] s t ∧
      SameController s t ∧ SameHidden s t ∧ Advanced 1 (Config.hcyc .plp) s t)

/-- O46. For every state and mask REP and SEP complete: bit k of P after REP is bit k before and not the mask's, after SEP bit k before or the mask's, for all eight bits; registers and memory are unchanged. The decoded mask is the byte at the effective address (log 10). Source: 47_flag_bit_ops.md (R185, R186). -/
def Obligations.RepClearsAndSepSetsTheMaskedBits : Prop :=
  ∀ (s : State) (m : Byte),
    (Completes (.repImm8 m) s fun t => (∀ k < 8, t.p.getLsbD k = (s.p.getLsbD k && !m.getLsbD k)) ∧ SameRegsBut [] s t ∧
      SameController s t ∧ SameHidden s t ∧ SameBytes s t ∧ Advanced 2 (Config.hcyc .rep) s t) ∧
    (Completes (.sepImm8 m) s fun t => (∀ k < 8, t.p.getLsbD k = (s.p.getLsbD k || m.getLsbD k)) ∧ SameRegsBut [] s t ∧
      SameController s t ∧ SameHidden s t ∧ SameBytes s t ∧ Advanced 2 (Config.hcyc .sep) s t)

/-- O47. For every state and field TRB and TSB complete: Z is whether A and the qword at the operand field share no bit, each bit of the qword there afterwards is the old bit and not A's (TRB) or the old bit or A's (TSB), no byte outside the eight changes, no flag but Z and no register changes. N unchanged is decision D39 (log 20). Source: 47_flag_bit_ops.md (R187, R188), 92_eei_decisions.md D39. -/
def Obligations.TrbAndTsbTestThenModify : Prop :=
  ∀ (s : State) (f : Field),
    let m := s.read64 (s.pc + 1)
    let rest := fun (t : State) => (t.flag .zero = true ↔ ∀ k < 64, (s.a.getLsbD k && m.getLsbD k) = false) ∧
      SameBytesBut (s.pc + 1) 8 s t ∧ Frame [] [.zero] s t
    (Completes (.trbAbs f) s fun t => (∀ k < 64, (t.read64 (s.pc + 1)).getLsbD k = (m.getLsbD k && !s.a.getLsbD k)) ∧
      rest t ∧ Advanced 17 (2 + Config.hcyc .trb) s t) ∧
    (Completes (.tsbAbs f) s fun t => (∀ k < 64, (t.read64 (s.pc + 1)).getLsbD k = (m.getLsbD k || s.a.getLsbD k)) ∧
      rest t ∧ Advanced 17 (2 + Config.hcyc .tsb) s t)

/-- O48. For every state and field each of the eight memory shifts completes: the word at the effective address is doubled modulo 2^16 or halved, with the incoming carry at bit 0 (ROL) or 15 (ROR), C is the bit shifted out, N and Z are those of the 16-bit result (decision D17); nothing else changes. Source: 48_shifts.md section 1 (R195 to R198), 92_eei_decisions.md D17. -/
def Obligations.MemoryShifts : Prop :=
  ∀ (s : State) (f : Field),
    Completes (.aslAbs f) s
      (ShiftedWord (s.pc + 1) ((s.read16 (s.pc + 1)).toNat * 2 % 65536) ((s.read16 (s.pc + 1)).getLsbD 15) (2 + Config.hcyc .asl) s) ∧
    Completes (.lsrAbs f) s
      (ShiftedWord (s.pc + 1) ((s.read16 (s.pc + 1)).toNat / 2) ((s.read16 (s.pc + 1)).getLsbD 0) (2 + Config.hcyc .lsr) s) ∧
    Completes (.rolAbs f) s
      (ShiftedWord (s.pc + 1) ((s.read16 (s.pc + 1)).toNat * 2 % 65536 + bit (s.flag .carry)) ((s.read16 (s.pc + 1)).getLsbD 15) (2 + Config.hcyc .rol) s) ∧
    Completes (.rorAbs f) s
      (ShiftedWord (s.pc + 1) ((s.read16 (s.pc + 1)).toNat / 2 + bit (s.flag .carry) * 32768) ((s.read16 (s.pc + 1)).getLsbD 0) (2 + Config.hcyc .ror) s) ∧
    Completes (.aslAbsX f) s
      (ShiftedWord (s.pc + 1 + s.x) ((s.read16 (s.pc + 1 + s.x)).toNat * 2 % 65536) ((s.read16 (s.pc + 1 + s.x)).getLsbD 15) (2 + Config.hcyc .asl) s) ∧
    Completes (.lsrAbsX f) s
      (ShiftedWord (s.pc + 1 + s.x) ((s.read16 (s.pc + 1 + s.x)).toNat / 2) ((s.read16 (s.pc + 1 + s.x)).getLsbD 0) (2 + Config.hcyc .lsr) s) ∧
    Completes (.rolAbsX f) s
      (ShiftedWord (s.pc + 1 + s.x) ((s.read16 (s.pc + 1 + s.x)).toNat * 2 % 65536 + bit (s.flag .carry)) ((s.read16 (s.pc + 1 + s.x)).getLsbD 15) (2 + Config.hcyc .rol) s) ∧
    Completes (.rorAbsX f) s
      (ShiftedWord (s.pc + 1 + s.x) ((s.read16 (s.pc + 1 + s.x)).toNat / 2 + bit (s.flag .carry) * 32768) ((s.read16 (s.pc + 1 + s.x)).getLsbD 0) (2 + Config.hcyc .ror) s)

/-- O49. For every state each accumulator shift completes: A[15:0] is shifted as the memory forms shift a word, A[63:16] is kept (decision D10), C is the bit shifted out, N and Z those of the 16-bit result (decision D17); nothing else changes. Source: 48_shifts.md section 2 (R199 to R202), 92_eei_decisions.md D10, D17. -/
def Obligations.AccumulatorShifts : Prop :=
  ∀ s : State,
    Completes .aslA s (ShiftedAcc (s.a.toNat * 2 % 65536) (s.a.getLsbD 15) (Config.hcyc .aslA) s) ∧
    Completes .lsrA s (ShiftedAcc (s.a.toNat % 65536 / 2) (s.a.getLsbD 0) (Config.hcyc .lsrA) s) ∧
    Completes .rolA s (ShiftedAcc (s.a.toNat * 2 % 65536 + bit (s.flag .carry)) (s.a.getLsbD 15) (Config.hcyc .rolA) s) ∧
    Completes .rorA s (ShiftedAcc (s.a.toNat % 65536 / 2 + bit (s.flag .carry) * 32768) (s.a.getLsbD 0) (Config.hcyc .rorA) s)

/-- O50. For either ENDIAN and every state and address: the bytes of a stored word or qword are at the address plus i modulo 2^64 for i from 0 on, byte i worth 256^i (little) or 256^(n-1-i) (big), and no other byte changes; a word, dword or qword read is the sum of its bytes so worth. The default is little. Order, no alignment and wrapping are decisions D5, D6, D7 (log 5). Source: 20_memory.md sections 3 and 4 (R45 to R47), 00_scope.md section 4 (R4), 92_eei_decisions.md D5, D6, D7. -/
def Obligations.WideAccessesLieInTheFacadesByteOrder : Prop :=
  (∀ (o : Endian) (s : State) (a : QWord),
      (∀ v : Word, SameBytesBut a 2 s (s.write16 a v o) ∧
        ∀ i < 2, ((s.write16 a v o).read8 (a + BitVec.ofNat 64 i)).toNat = v.toNat / 256 ^ place o 2 i % 256) ∧
      (∀ v : QWord, SameBytesBut a 8 s (s.write64 a v o) ∧
        ∀ i < 8, ((s.write64 a v o).read8 (a + BitVec.ofNat 64 i)).toNat = v.toNat / 256 ^ place o 8 i % 256) ∧
      (s.read16 a o).toNat = bytesWorth s a 2 o ∧ (s.read32 a o).toNat = bytesWorth s a 4 o ∧
      (s.read64 a o).toNat = bytesWorth s a 8 o) ∧
    endian = .little

/-- O51. For every half-width h (4, 8, 16 and 32 for the four widths) and all values: lo is v modulo 2^h, hi is v divided by 2^h, join l u is u * 2^h + l, swap v is join of hi and lo, join (lo v) (hi v) = v and swap (swap v) = v. Source: R19. -/
def Obligations.SplitJoinSwapLaws : Prop :=
  ∀ (h : Nat) (v : BitVec (h + h)) (l u : BitVec h),
    (lo v).toNat = v.toNat % 2 ^ h ∧ (hi v).toNat = v.toNat / 2 ^ h ∧ (join l u).toNat = u.toNat * 2 ^ h + l.toNat ∧
    swap v = join (hi v) (lo v) ∧ join (lo v) (hi v) = v ∧ swap (swap v) = v

/-- O52. For either ENDIAN, either REL_BASE, every opcode map and every state: with a well-formed map a step answers a next state or the fault of a byte the map leaves undefined, at its address; with an ill-formed map a running core's step is refused. The parameters are decisions D1, D5 and D11 (logs 5, 6, 7). Source: 30_encoding.md section 4 (R66), 00_scope.md section 4 (R4), 92_eei_decisions.md D1, D5, D11. -/
def Obligations.EveryWellFormedOpcodeMapHasAMeaning : Prop :=
  ∀ (order : Endian) (base : RelBase) (map : OpcodeMap) (s : State),
    (map.wf = true → (∃ t, facadeStep order base map s = .next t) ∨
      (s.stop = .running ∧ (∀ e, (s.read8 s.pc, e) ∉ map) ∧
        facadeStep order base map s = .fault (.illegalOpcode (s.read8 s.pc) s.pc))) ∧
    (map.wf = false → s.stop = .running → facadeStep order base map s = .refused .illFormedOpcodeMap)

/-- O53. For every RESET_STATE, argument and state: after reset(t) the registers, P, pc, tpc and Z are those of RESET_STATE, the core is RUNNING, cycles is 0, trace is t, and every byte of memory is as before; no capture and no pending interrupt are decision D9. State.reset is reset(false) with every register, P, pc, tpc, the 128 zero-cache entries and every byte of memory zero and no illegal opcode recorded, the model's choice (logs 1, 3, 9). Source: 10_state.md section 7 (R26), 70_reset_and_hazards.md section 1, 92_eei_decisions.md D9. -/
def Obligations.ResetLeavesTheTabledState : Prop :=
  (∀ (rs : ResetState) (tr : Bool) (s : State),
      let t := (hostCall (.reset rs tr) s).2
      t.a = rs.a ∧ t.b = rs.b ∧ t.x = rs.x ∧ t.y = rs.y ∧ t.sp = rs.sp ∧ t.d = rs.d ∧ t.p = rs.p ∧ t.pc = rs.pc ∧
      t.tpc = rs.tpc ∧ t.z = rs.z ∧ t.stop = .running ∧ t.cycles = 0 ∧ t.trace = tr ∧ t.cop = none ∧
      t.interrupted = false ∧ SameBytes s t) ∧
    State.reset.stop = .running ∧ State.reset.cycles = 0 ∧ State.reset.cop = none ∧ State.reset.interrupted = false ∧
    (∀ r, reg State.reset r = 0) ∧ State.reset.p = 0 ∧ State.reset.pc = 0 ∧ State.reset.tpc = 0 ∧
    State.reset.z = List.replicate 128 0 ∧ State.reset.trace = false ∧ State.reset.illegal = [] ∧ ∀ k, State.reset.read8 k = 0

/-- O54. For every state, resume() answers the state with the stop reason RUNNING and nothing else changed (decision D37), so isStopped() is then false. Source: 60_exceptions.md section 1 (R212), 92_eei_decisions.md D37. -/
def Obligations.ResumeSetsRunningAndNothingElse : Prop :=
  ∀ s : State, let t := (hostCall .resume s).2
    t.stop = .running ∧ t.isStopped = false ∧ t = { s with stop := .running } ∧ t.getCopInst = s.getCopInst

/-- O55. For every state interrupt() sets interrupted, changes no register, flag, pc, stop reason, capture, cycle count or byte of memory, and calling it again on a state with the bit set changes nothing. Source: R213. -/
def Obligations.InterruptOnlySetsThePendingBit : Prop :=
  ∀ s : State, let t := (hostCall .interrupt s).2
    t.interrupted = true ∧ t.stop = s.stop ∧ t.pc = s.pc ∧ t.tpc = s.tpc ∧ t.p = s.p ∧ t.cop = s.cop ∧ t.cycles = s.cycles ∧
    SameRegsBut [] s t ∧ SameBytes s t ∧ (s.interrupted = true → t = s)

/-- O56. For every state and every sequence of host calls after a drain in which no step executes a COP, the capture reads as size 0, and another drain returns opcode 0 and no words: the payload is delivered once. Source: R217. -/
def Obligations.DrainedCaptureStaysEmptyUntilTheNextCop : Prop :=
  ∀ (s : State) (cs : List HostCall), NoCop cs (hostCall .getCopInst s).2 →
    (hostCalls cs (hostCall .getCopInst s).2).getCopInstSize = 0 ∧
    (hostCall .getCopInst (hostCalls cs (hostCall .getCopInst s).2)).1 = .copInst 0 []

/-- O57. For every state: with a capture, getCopInst answers its opcode and words and getCopInstSize its size; with none, opcode 0, no words and size 0; the drain leaves the capture none and every other part of the state as it was, the stop reason too; getCopInstSize changes nothing and does not depend on stop. Source: R215, R216. -/
def Obligations.DrainReturnsTheCaptureAndClearsIt : Prop :=
  ∀ s : State,
    (∀ c, s.cop = some c → (hostCall .getCopInst s).1 = .copInst c.opcode c.words ∧
      ∀ r, (hostCall .getCopInstSize { s with stop := r }).1 = .size c.size) ∧
    (s.cop = none → (hostCall .getCopInst s).1 = .copInst 0 [] ∧
      ∀ r, (hostCall .getCopInstSize { s with stop := r }).1 = .size 0) ∧
    (hostCall .getCopInst s).2 = { s with cop := none } ∧ (hostCall .getCopInstSize s).2 = s

/-- O58. For every running state at an unassigned byte, the host's step answers the fault with the byte and its address and leaves: stop STOP, pc one further, tpc the address, cycles up by FETCH_CYC, the record one longer, every register, flag, capture and byte unchanged, one facade call and no event. Halting is decision D4 (log 9). Source: 60_exceptions.md section 3 (R220), 92_eei_decisions.md D4. -/
def Obligations.IllegalOpcodeHaltsTheCore : Prop :=
  ∀ s : State, s.stop = .running → s.read8 s.pc ∉ opcodeMap.map Prod.fst →
    let t := (hostCall .step s).2
    (hostCall .step s).1 = .faulted (.illegalOpcode (s.read8 s.pc) s.pc) ∧
    t.stop = .stop ∧ Advanced 1 0 s t ∧ t.illegal = s.illegal ++ [(s.read8 s.pc, s.pc)] ∧ t.cop = s.cop ∧ t.z = s.z ∧
    t.interrupted = s.interrupted ∧ t.trace = s.trace ∧ SameRegsBut [] s t ∧ SameFlagsBut [] s t ∧ SameBytes s t ∧
    stepAccesses s = [.read s.pc 1] ∧ stepEvent s = none

/-- O59. For every state and every sequence of host calls, the record of illegal opcodes before is a beginning of the record after (decision D4; that reset keeps it too is the model's choice, log 9). Source: 60_exceptions.md section 3 (R220), 92_eei_decisions.md D4. -/
def Obligations.IllegalRecordIsNeverErased : Prop :=
  ∀ (cs : List HostCall) (s : State), s.illegal <+: (hostCalls cs s).illegal

/-- O60. For every state the step emits an event exactly when stop is RUNNING, trace is set and the byte at pc is assigned; for each of the 71 assigned bytes the event is the mnemonic of its row, ADC's suffixed with .b, .w, .d or .q, and the address its mode resolves to, none for implied and accumulator forms (log 12). The map, the byte order and REL_BASE are the spec's defaults (logs 5, 6, 7). Source: 60_exceptions.md section 9 (R231), 30_encoding.md section 4 (R67), 40_addressing_modes.md section 2. -/
def Obligations.TraceEventsOfExecutedSteps : Prop :=
  ∀ s : State,
    ((stepEvent s).isSome = true ↔ s.stop = .running ∧ s.trace = true ∧ s.read8 s.pc ∈ opcodeMap.map Prod.fst) ∧
    eventRows.map Prod.fst = opcodeMap.map Prod.fst ∧
    ∀ r ∈ eventRows, s.stop = .running → s.trace = true → s.read8 s.pc = r.1 →
      stepEvent s = some ⟨r.2.1, eventAddress r.2.2 s⟩
end

