-- ==== Sys2Proof/Laws/Bytes.lean ====
section
/-! SUPPORT. A value lies in its bytes and comes back from them; the small laws of truncation and narrow writes. -/

namespace Sys2Proof

@[simp] theorem leBytes_length (n v : Nat) : (leBytes n v).length = n := by
  induction n generalizing v with
  | zero => rfl
  | succ n ih => simp [leBytes, ih]

@[simp] theorem toBytes_length (e : Endian) (n v : Nat) : (toBytes e n v).length = n := by
  cases e <;> simp [toBytes]

theorem leNat_lt (bs : List Byte) : leNat bs < 256 ^ bs.length := by
  induction bs with
  | nil => simp [leNat]
  | cons b bs ih =>
    have hb := b.isLt
    simp only [leNat, List.length_cons, Nat.pow_succ]
    omega

theorem ofBytes_lt (e : Endian) (bs : List Byte) : ofBytes e bs < 256 ^ bs.length := by
  cases e
  · exact leNat_lt bs
  · simpa [ofBytes] using leNat_lt bs.reverse

/-- Reading back the `n` bytes of `v` gives `v` modulo 256^n. -/
theorem leNat_leBytes (n v : Nat) : leNat (leBytes n v) = v % 256 ^ n := by
  induction n generalizing v with
  | zero => simp [leBytes, leNat, Nat.mod_one]
  | succ n ih =>
    simp only [leBytes, leNat, ih, BitVec.toNat_ofNat, Nat.reducePow]
    rw [Nat.pow_succ', Nat.mod_mul]

/-- The bytes of the number that bytes stand for are those bytes. -/
theorem leBytes_leNat (bs : List Byte) : leBytes bs.length (leNat bs) = bs := by
  induction bs with
  | nil => rfl
  | cons b bs ih =>
    have hb : b.toNat < 256 := b.isLt
    have h1 : (b.toNat + 256 * leNat bs) / 256 = leNat bs := by omega
    simp only [List.length_cons, leBytes, leNat, h1, ih, List.cons.injEq, and_true]
    apply BitVec.eq_of_toNat_eq
    simp only [BitVec.toNat_ofNat, Nat.reducePow]
    omega

theorem ofBytes_toBytes (e : Endian) (n v : Nat) : ofBytes e (toBytes e n v) = v % 256 ^ n := by
  cases e <;> simp [ofBytes, toBytes, leNat_leBytes]

theorem toBytes_ofBytes (e : Endian) (bs : List Byte) : toBytes e bs.length (ofBytes e bs) = bs := by
  cases e
  · exact leBytes_leNat bs
  · have h := leBytes_leNat bs.reverse
    rw [List.length_reverse] at h
    simp [ofBytes, toBytes, h]

@[simp] theorem bytesOfWords_length (e : Endian) (ws : List Word) : (bytesOfWords e ws).length = 2 * ws.length := by
  induction ws with
  | nil => rfl
  | cons w ws ih => simp [bytesOfWords, ih]; omega

/-- The words of the bytes of words are those words. -/
theorem wordsOfBytes_bytesOfWords (e : Endian) (ws : List Word) : wordsOfBytes e (bytesOfWords e ws) = ws := by
  induction ws with
  | nil => rfl
  | cons w ws ih =>
    obtain ⟨b0, b1, h⟩ : ∃ b0 b1, toBytes e 2 w.toNat = [b0, b1] := by
      have hl := toBytes_length e 2 w.toNat
      match h : toBytes e 2 w.toNat, hl with
      | [b0, b1], _ => exact ⟨b0, b1, rfl⟩
    have hw : ofBytes e [b0, b1] = w.toNat := by
      rw [← h, ofBytes_toBytes]
      exact Nat.mod_eq_of_lt w.isLt
    simp [bytesOfWords, h, wordsOfBytes, hw, ih]

theorem lowWord_eq_trunc16 (v : QWord) : (lowWord v).setWidth 64 = trunc16 v := rfl

/-- `trunc16` clears bits 63 to 16 and keeps the rest. -/
theorem trunc16_toNat (v : QWord) : (trunc16 v).toNat = v.toNat % 65536 := by
  simp [trunc16]
  omega

/-- A narrow write reads back as its value (10_state.md R13). -/
theorem lowWord_mergeLow (r : QWord) (v : Word) : lowWord (mergeLow r v) = v := by
  ext k hk
  simp [lowWord, mergeLow]

theorem lowWord_toNat (v : QWord) : (lowWord v).toNat = v.toNat % 65536 := by
  simp [lowWord]

/-- A narrow write as a number: the old upper part and the new low word (10_state.md R13). -/
theorem mergeLow_toNat (r : QWord) (v : Word) : (mergeLow r v).toNat = r.toNat / 65536 * 65536 + v.toNat := by
  have hr := r.isLt
  have hv := v.isLt
  have h : (mergeLow r v).toNat = (r.toNat / 65536 * 65536) ||| v.toNat := by
    simp only [mergeLow, BitVec.toNat_or, BitVec.toNat_shiftLeft, BitVec.toNat_ushiftRight, BitVec.toNat_setWidth,
      Nat.shiftRight_eq_div_pow, Nat.shiftLeft_eq]
    congr 1 <;> omega
  rw [h, Nat.mul_comm, show (65536 : Nat) = 2 ^ 16 from rfl, Nat.two_pow_add_eq_or_of_lt hv]

/-- A narrow write keeps bits 63 to 16 (10_state.md R13). -/
theorem mergeLow_high (r : QWord) (v : Word) (k : Nat) (hk : 16 ≤ k) : (mergeLow r v).getLsbD k = r.getLsbD k := by
  by_cases h64 : k < 64
  · have h1 : ¬ k < 16 := by omega
    have h2 : 16 + (k - 16) = k := by omega
    simp [mergeLow, h64, h1, h2, BitVec.getLsbD_of_ge v k hk]
  · rw [BitVec.getLsbD_of_ge _ _ (by omega), BitVec.getLsbD_of_ge _ _ (by omega)]

end Sys2Proof
end

