-- ==== Sys2Proof/Laws/State.lean ====
section
/-! SUPPORT. One lemma per field per update of the state, true by definition, and that an update which leaves `p` or `mem` alone leaves
the flags or the reads alone. -/

namespace Sys2Proof.Machine

/-! ### setA -/

@[simp] theorem State.setA_a (s : State) (v : QWord) : (s.setA v).a = v := rfl
@[simp] theorem State.setA_b (s : State) (v : QWord) : (s.setA v).b = s.b := rfl
@[simp] theorem State.setA_x (s : State) (v : QWord) : (s.setA v).x = s.x := rfl
@[simp] theorem State.setA_y (s : State) (v : QWord) : (s.setA v).y = s.y := rfl
@[simp] theorem State.setA_sp (s : State) (v : QWord) : (s.setA v).sp = s.sp := rfl
@[simp] theorem State.setA_d (s : State) (v : QWord) : (s.setA v).d = s.d := rfl
@[simp] theorem State.setA_p (s : State) (v : QWord) : (s.setA v).p = s.p := rfl
@[simp] theorem State.setA_pc (s : State) (v : QWord) : (s.setA v).pc = s.pc := rfl
@[simp] theorem State.setA_tpc (s : State) (v : QWord) : (s.setA v).tpc = s.tpc := rfl
@[simp] theorem State.setA_z (s : State) (v : QWord) : (s.setA v).z = s.z := rfl
@[simp] theorem State.setA_stop (s : State) (v : QWord) : (s.setA v).stop = s.stop := rfl
@[simp] theorem State.setA_cop (s : State) (v : QWord) : (s.setA v).cop = s.cop := rfl
@[simp] theorem State.setA_cycles (s : State) (v : QWord) : (s.setA v).cycles = s.cycles := rfl
@[simp] theorem State.setA_interrupted (s : State) (v : QWord) : (s.setA v).interrupted = s.interrupted := rfl
@[simp] theorem State.setA_trace (s : State) (v : QWord) : (s.setA v).trace = s.trace := rfl
@[simp] theorem State.setA_mem (s : State) (v : QWord) : (s.setA v).mem = s.mem := rfl
@[simp] theorem State.setA_illegal (s : State) (v : QWord) : (s.setA v).illegal = s.illegal := rfl
@[simp] theorem State.setA_flag (s : State) (v : QWord) (g : Flag) : (s.setA v).flag g = s.flag g := rfl
@[simp] theorem State.setA_read8 (s : State) (v : QWord) (c : QWord) : (s.setA v).read8 c = s.read8 c := rfl
@[simp] theorem State.setA_read16 (s : State) (v : QWord) (c : QWord) (o : Endian) : (s.setA v).read16 c o = s.read16 c o := rfl
@[simp] theorem State.setA_read32 (s : State) (v : QWord) (c : QWord) (o : Endian) : (s.setA v).read32 c o = s.read32 c o := rfl
@[simp] theorem State.setA_read64 (s : State) (v : QWord) (c : QWord) (o : Endian) : (s.setA v).read64 c o = s.read64 c o := rfl

/-! ### setX -/

@[simp] theorem State.setX_a (s : State) (v : QWord) : (s.setX v).a = s.a := rfl
@[simp] theorem State.setX_b (s : State) (v : QWord) : (s.setX v).b = s.b := rfl
@[simp] theorem State.setX_x (s : State) (v : QWord) : (s.setX v).x = v := rfl
@[simp] theorem State.setX_y (s : State) (v : QWord) : (s.setX v).y = s.y := rfl
@[simp] theorem State.setX_sp (s : State) (v : QWord) : (s.setX v).sp = s.sp := rfl
@[simp] theorem State.setX_d (s : State) (v : QWord) : (s.setX v).d = s.d := rfl
@[simp] theorem State.setX_p (s : State) (v : QWord) : (s.setX v).p = s.p := rfl
@[simp] theorem State.setX_pc (s : State) (v : QWord) : (s.setX v).pc = s.pc := rfl
@[simp] theorem State.setX_tpc (s : State) (v : QWord) : (s.setX v).tpc = s.tpc := rfl
@[simp] theorem State.setX_z (s : State) (v : QWord) : (s.setX v).z = s.z := rfl
@[simp] theorem State.setX_stop (s : State) (v : QWord) : (s.setX v).stop = s.stop := rfl
@[simp] theorem State.setX_cop (s : State) (v : QWord) : (s.setX v).cop = s.cop := rfl
@[simp] theorem State.setX_cycles (s : State) (v : QWord) : (s.setX v).cycles = s.cycles := rfl
@[simp] theorem State.setX_interrupted (s : State) (v : QWord) : (s.setX v).interrupted = s.interrupted := rfl
@[simp] theorem State.setX_trace (s : State) (v : QWord) : (s.setX v).trace = s.trace := rfl
@[simp] theorem State.setX_mem (s : State) (v : QWord) : (s.setX v).mem = s.mem := rfl
@[simp] theorem State.setX_illegal (s : State) (v : QWord) : (s.setX v).illegal = s.illegal := rfl
@[simp] theorem State.setX_flag (s : State) (v : QWord) (g : Flag) : (s.setX v).flag g = s.flag g := rfl
@[simp] theorem State.setX_read8 (s : State) (v : QWord) (c : QWord) : (s.setX v).read8 c = s.read8 c := rfl
@[simp] theorem State.setX_read16 (s : State) (v : QWord) (c : QWord) (o : Endian) : (s.setX v).read16 c o = s.read16 c o := rfl
@[simp] theorem State.setX_read32 (s : State) (v : QWord) (c : QWord) (o : Endian) : (s.setX v).read32 c o = s.read32 c o := rfl
@[simp] theorem State.setX_read64 (s : State) (v : QWord) (c : QWord) (o : Endian) : (s.setX v).read64 c o = s.read64 c o := rfl

/-! ### setY -/

@[simp] theorem State.setY_a (s : State) (v : QWord) : (s.setY v).a = s.a := rfl
@[simp] theorem State.setY_b (s : State) (v : QWord) : (s.setY v).b = s.b := rfl
@[simp] theorem State.setY_x (s : State) (v : QWord) : (s.setY v).x = s.x := rfl
@[simp] theorem State.setY_y (s : State) (v : QWord) : (s.setY v).y = v := rfl
@[simp] theorem State.setY_sp (s : State) (v : QWord) : (s.setY v).sp = s.sp := rfl
@[simp] theorem State.setY_d (s : State) (v : QWord) : (s.setY v).d = s.d := rfl
@[simp] theorem State.setY_p (s : State) (v : QWord) : (s.setY v).p = s.p := rfl
@[simp] theorem State.setY_pc (s : State) (v : QWord) : (s.setY v).pc = s.pc := rfl
@[simp] theorem State.setY_tpc (s : State) (v : QWord) : (s.setY v).tpc = s.tpc := rfl
@[simp] theorem State.setY_z (s : State) (v : QWord) : (s.setY v).z = s.z := rfl
@[simp] theorem State.setY_stop (s : State) (v : QWord) : (s.setY v).stop = s.stop := rfl
@[simp] theorem State.setY_cop (s : State) (v : QWord) : (s.setY v).cop = s.cop := rfl
@[simp] theorem State.setY_cycles (s : State) (v : QWord) : (s.setY v).cycles = s.cycles := rfl
@[simp] theorem State.setY_interrupted (s : State) (v : QWord) : (s.setY v).interrupted = s.interrupted := rfl
@[simp] theorem State.setY_trace (s : State) (v : QWord) : (s.setY v).trace = s.trace := rfl
@[simp] theorem State.setY_mem (s : State) (v : QWord) : (s.setY v).mem = s.mem := rfl
@[simp] theorem State.setY_illegal (s : State) (v : QWord) : (s.setY v).illegal = s.illegal := rfl
@[simp] theorem State.setY_flag (s : State) (v : QWord) (g : Flag) : (s.setY v).flag g = s.flag g := rfl
@[simp] theorem State.setY_read8 (s : State) (v : QWord) (c : QWord) : (s.setY v).read8 c = s.read8 c := rfl
@[simp] theorem State.setY_read16 (s : State) (v : QWord) (c : QWord) (o : Endian) : (s.setY v).read16 c o = s.read16 c o := rfl
@[simp] theorem State.setY_read32 (s : State) (v : QWord) (c : QWord) (o : Endian) : (s.setY v).read32 c o = s.read32 c o := rfl
@[simp] theorem State.setY_read64 (s : State) (v : QWord) (c : QWord) (o : Endian) : (s.setY v).read64 c o = s.read64 c o := rfl

/-! ### setSP -/

@[simp] theorem State.setSP_a (s : State) (v : QWord) : (s.setSP v).a = s.a := rfl
@[simp] theorem State.setSP_b (s : State) (v : QWord) : (s.setSP v).b = s.b := rfl
@[simp] theorem State.setSP_x (s : State) (v : QWord) : (s.setSP v).x = s.x := rfl
@[simp] theorem State.setSP_y (s : State) (v : QWord) : (s.setSP v).y = s.y := rfl
@[simp] theorem State.setSP_sp (s : State) (v : QWord) : (s.setSP v).sp = v := rfl
@[simp] theorem State.setSP_d (s : State) (v : QWord) : (s.setSP v).d = s.d := rfl
@[simp] theorem State.setSP_p (s : State) (v : QWord) : (s.setSP v).p = s.p := rfl
@[simp] theorem State.setSP_pc (s : State) (v : QWord) : (s.setSP v).pc = s.pc := rfl
@[simp] theorem State.setSP_tpc (s : State) (v : QWord) : (s.setSP v).tpc = s.tpc := rfl
@[simp] theorem State.setSP_z (s : State) (v : QWord) : (s.setSP v).z = s.z := rfl
@[simp] theorem State.setSP_stop (s : State) (v : QWord) : (s.setSP v).stop = s.stop := rfl
@[simp] theorem State.setSP_cop (s : State) (v : QWord) : (s.setSP v).cop = s.cop := rfl
@[simp] theorem State.setSP_cycles (s : State) (v : QWord) : (s.setSP v).cycles = s.cycles := rfl
@[simp] theorem State.setSP_interrupted (s : State) (v : QWord) : (s.setSP v).interrupted = s.interrupted := rfl
@[simp] theorem State.setSP_trace (s : State) (v : QWord) : (s.setSP v).trace = s.trace := rfl
@[simp] theorem State.setSP_mem (s : State) (v : QWord) : (s.setSP v).mem = s.mem := rfl
@[simp] theorem State.setSP_illegal (s : State) (v : QWord) : (s.setSP v).illegal = s.illegal := rfl
@[simp] theorem State.setSP_flag (s : State) (v : QWord) (g : Flag) : (s.setSP v).flag g = s.flag g := rfl
@[simp] theorem State.setSP_read8 (s : State) (v : QWord) (c : QWord) : (s.setSP v).read8 c = s.read8 c := rfl
@[simp] theorem State.setSP_read16 (s : State) (v : QWord) (c : QWord) (o : Endian) : (s.setSP v).read16 c o = s.read16 c o := rfl
@[simp] theorem State.setSP_read32 (s : State) (v : QWord) (c : QWord) (o : Endian) : (s.setSP v).read32 c o = s.read32 c o := rfl
@[simp] theorem State.setSP_read64 (s : State) (v : QWord) (c : QWord) (o : Endian) : (s.setSP v).read64 c o = s.read64 c o := rfl

/-! ### setD -/

@[simp] theorem State.setD_a (s : State) (v : QWord) : (s.setD v).a = s.a := rfl
@[simp] theorem State.setD_b (s : State) (v : QWord) : (s.setD v).b = s.b := rfl
@[simp] theorem State.setD_x (s : State) (v : QWord) : (s.setD v).x = s.x := rfl
@[simp] theorem State.setD_y (s : State) (v : QWord) : (s.setD v).y = s.y := rfl
@[simp] theorem State.setD_sp (s : State) (v : QWord) : (s.setD v).sp = s.sp := rfl
@[simp] theorem State.setD_d (s : State) (v : QWord) : (s.setD v).d = v := rfl
@[simp] theorem State.setD_p (s : State) (v : QWord) : (s.setD v).p = s.p := rfl
@[simp] theorem State.setD_pc (s : State) (v : QWord) : (s.setD v).pc = s.pc := rfl
@[simp] theorem State.setD_tpc (s : State) (v : QWord) : (s.setD v).tpc = s.tpc := rfl
@[simp] theorem State.setD_z (s : State) (v : QWord) : (s.setD v).z = s.z := rfl
@[simp] theorem State.setD_stop (s : State) (v : QWord) : (s.setD v).stop = s.stop := rfl
@[simp] theorem State.setD_cop (s : State) (v : QWord) : (s.setD v).cop = s.cop := rfl
@[simp] theorem State.setD_cycles (s : State) (v : QWord) : (s.setD v).cycles = s.cycles := rfl
@[simp] theorem State.setD_interrupted (s : State) (v : QWord) : (s.setD v).interrupted = s.interrupted := rfl
@[simp] theorem State.setD_trace (s : State) (v : QWord) : (s.setD v).trace = s.trace := rfl
@[simp] theorem State.setD_mem (s : State) (v : QWord) : (s.setD v).mem = s.mem := rfl
@[simp] theorem State.setD_illegal (s : State) (v : QWord) : (s.setD v).illegal = s.illegal := rfl
@[simp] theorem State.setD_flag (s : State) (v : QWord) (g : Flag) : (s.setD v).flag g = s.flag g := rfl
@[simp] theorem State.setD_read8 (s : State) (v : QWord) (c : QWord) : (s.setD v).read8 c = s.read8 c := rfl
@[simp] theorem State.setD_read16 (s : State) (v : QWord) (c : QWord) (o : Endian) : (s.setD v).read16 c o = s.read16 c o := rfl
@[simp] theorem State.setD_read32 (s : State) (v : QWord) (c : QWord) (o : Endian) : (s.setD v).read32 c o = s.read32 c o := rfl
@[simp] theorem State.setD_read64 (s : State) (v : QWord) (c : QWord) (o : Endian) : (s.setD v).read64 c o = s.read64 c o := rfl

/-! ### setP -/

@[simp] theorem State.setP_a (s : State) (v : Byte) : (s.setP v).a = s.a := rfl
@[simp] theorem State.setP_b (s : State) (v : Byte) : (s.setP v).b = s.b := rfl
@[simp] theorem State.setP_x (s : State) (v : Byte) : (s.setP v).x = s.x := rfl
@[simp] theorem State.setP_y (s : State) (v : Byte) : (s.setP v).y = s.y := rfl
@[simp] theorem State.setP_sp (s : State) (v : Byte) : (s.setP v).sp = s.sp := rfl
@[simp] theorem State.setP_d (s : State) (v : Byte) : (s.setP v).d = s.d := rfl
@[simp] theorem State.setP_p (s : State) (v : Byte) : (s.setP v).p = v := rfl
@[simp] theorem State.setP_pc (s : State) (v : Byte) : (s.setP v).pc = s.pc := rfl
@[simp] theorem State.setP_tpc (s : State) (v : Byte) : (s.setP v).tpc = s.tpc := rfl
@[simp] theorem State.setP_z (s : State) (v : Byte) : (s.setP v).z = s.z := rfl
@[simp] theorem State.setP_stop (s : State) (v : Byte) : (s.setP v).stop = s.stop := rfl
@[simp] theorem State.setP_cop (s : State) (v : Byte) : (s.setP v).cop = s.cop := rfl
@[simp] theorem State.setP_cycles (s : State) (v : Byte) : (s.setP v).cycles = s.cycles := rfl
@[simp] theorem State.setP_interrupted (s : State) (v : Byte) : (s.setP v).interrupted = s.interrupted := rfl
@[simp] theorem State.setP_trace (s : State) (v : Byte) : (s.setP v).trace = s.trace := rfl
@[simp] theorem State.setP_mem (s : State) (v : Byte) : (s.setP v).mem = s.mem := rfl
@[simp] theorem State.setP_illegal (s : State) (v : Byte) : (s.setP v).illegal = s.illegal := rfl
@[simp] theorem State.setP_read8 (s : State) (v : Byte) (c : QWord) : (s.setP v).read8 c = s.read8 c := rfl
@[simp] theorem State.setP_read16 (s : State) (v : Byte) (c : QWord) (o : Endian) : (s.setP v).read16 c o = s.read16 c o := rfl
@[simp] theorem State.setP_read32 (s : State) (v : Byte) (c : QWord) (o : Endian) : (s.setP v).read32 c o = s.read32 c o := rfl
@[simp] theorem State.setP_read64 (s : State) (v : Byte) (c : QWord) (o : Endian) : (s.setP v).read64 c o = s.read64 c o := rfl

/-! ### setPC -/

@[simp] theorem State.setPC_a (s : State) (v : QWord) : (s.setPC v).a = s.a := rfl
@[simp] theorem State.setPC_b (s : State) (v : QWord) : (s.setPC v).b = s.b := rfl
@[simp] theorem State.setPC_x (s : State) (v : QWord) : (s.setPC v).x = s.x := rfl
@[simp] theorem State.setPC_y (s : State) (v : QWord) : (s.setPC v).y = s.y := rfl
@[simp] theorem State.setPC_sp (s : State) (v : QWord) : (s.setPC v).sp = s.sp := rfl
@[simp] theorem State.setPC_d (s : State) (v : QWord) : (s.setPC v).d = s.d := rfl
@[simp] theorem State.setPC_p (s : State) (v : QWord) : (s.setPC v).p = s.p := rfl
@[simp] theorem State.setPC_pc (s : State) (v : QWord) : (s.setPC v).pc = v := rfl
@[simp] theorem State.setPC_tpc (s : State) (v : QWord) : (s.setPC v).tpc = s.tpc := rfl
@[simp] theorem State.setPC_z (s : State) (v : QWord) : (s.setPC v).z = s.z := rfl
@[simp] theorem State.setPC_stop (s : State) (v : QWord) : (s.setPC v).stop = s.stop := rfl
@[simp] theorem State.setPC_cop (s : State) (v : QWord) : (s.setPC v).cop = s.cop := rfl
@[simp] theorem State.setPC_cycles (s : State) (v : QWord) : (s.setPC v).cycles = s.cycles := rfl
@[simp] theorem State.setPC_interrupted (s : State) (v : QWord) : (s.setPC v).interrupted = s.interrupted := rfl
@[simp] theorem State.setPC_trace (s : State) (v : QWord) : (s.setPC v).trace = s.trace := rfl
@[simp] theorem State.setPC_mem (s : State) (v : QWord) : (s.setPC v).mem = s.mem := rfl
@[simp] theorem State.setPC_illegal (s : State) (v : QWord) : (s.setPC v).illegal = s.illegal := rfl
@[simp] theorem State.setPC_flag (s : State) (v : QWord) (g : Flag) : (s.setPC v).flag g = s.flag g := rfl
@[simp] theorem State.setPC_read8 (s : State) (v : QWord) (c : QWord) : (s.setPC v).read8 c = s.read8 c := rfl
@[simp] theorem State.setPC_read16 (s : State) (v : QWord) (c : QWord) (o : Endian) : (s.setPC v).read16 c o = s.read16 c o := rfl
@[simp] theorem State.setPC_read32 (s : State) (v : QWord) (c : QWord) (o : Endian) : (s.setPC v).read32 c o = s.read32 c o := rfl
@[simp] theorem State.setPC_read64 (s : State) (v : QWord) (c : QWord) (o : Endian) : (s.setPC v).read64 c o = s.read64 c o := rfl

/-! ### setStop -/

@[simp] theorem State.setStop_a (s : State) (v : StopReason) : (s.setStop v).a = s.a := rfl
@[simp] theorem State.setStop_b (s : State) (v : StopReason) : (s.setStop v).b = s.b := rfl
@[simp] theorem State.setStop_x (s : State) (v : StopReason) : (s.setStop v).x = s.x := rfl
@[simp] theorem State.setStop_y (s : State) (v : StopReason) : (s.setStop v).y = s.y := rfl
@[simp] theorem State.setStop_sp (s : State) (v : StopReason) : (s.setStop v).sp = s.sp := rfl
@[simp] theorem State.setStop_d (s : State) (v : StopReason) : (s.setStop v).d = s.d := rfl
@[simp] theorem State.setStop_p (s : State) (v : StopReason) : (s.setStop v).p = s.p := rfl
@[simp] theorem State.setStop_pc (s : State) (v : StopReason) : (s.setStop v).pc = s.pc := rfl
@[simp] theorem State.setStop_tpc (s : State) (v : StopReason) : (s.setStop v).tpc = s.tpc := rfl
@[simp] theorem State.setStop_z (s : State) (v : StopReason) : (s.setStop v).z = s.z := rfl
@[simp] theorem State.setStop_stop (s : State) (v : StopReason) : (s.setStop v).stop = v := rfl
@[simp] theorem State.setStop_cop (s : State) (v : StopReason) : (s.setStop v).cop = s.cop := rfl
@[simp] theorem State.setStop_cycles (s : State) (v : StopReason) : (s.setStop v).cycles = s.cycles := rfl
@[simp] theorem State.setStop_interrupted (s : State) (v : StopReason) : (s.setStop v).interrupted = s.interrupted := rfl
@[simp] theorem State.setStop_trace (s : State) (v : StopReason) : (s.setStop v).trace = s.trace := rfl
@[simp] theorem State.setStop_mem (s : State) (v : StopReason) : (s.setStop v).mem = s.mem := rfl
@[simp] theorem State.setStop_illegal (s : State) (v : StopReason) : (s.setStop v).illegal = s.illegal := rfl
@[simp] theorem State.setStop_flag (s : State) (v : StopReason) (g : Flag) : (s.setStop v).flag g = s.flag g := rfl
@[simp] theorem State.setStop_read8 (s : State) (v : StopReason) (c : QWord) : (s.setStop v).read8 c = s.read8 c := rfl
@[simp] theorem State.setStop_read16 (s : State) (v : StopReason) (c : QWord) (o : Endian) : (s.setStop v).read16 c o = s.read16 c o := rfl
@[simp] theorem State.setStop_read32 (s : State) (v : StopReason) (c : QWord) (o : Endian) : (s.setStop v).read32 c o = s.read32 c o := rfl
@[simp] theorem State.setStop_read64 (s : State) (v : StopReason) (c : QWord) (o : Endian) : (s.setStop v).read64 c o = s.read64 c o := rfl

/-! ### setCop -/

@[simp] theorem State.setCop_a (s : State) (v : Option CopCapture) : (s.setCop v).a = s.a := rfl
@[simp] theorem State.setCop_b (s : State) (v : Option CopCapture) : (s.setCop v).b = s.b := rfl
@[simp] theorem State.setCop_x (s : State) (v : Option CopCapture) : (s.setCop v).x = s.x := rfl
@[simp] theorem State.setCop_y (s : State) (v : Option CopCapture) : (s.setCop v).y = s.y := rfl
@[simp] theorem State.setCop_sp (s : State) (v : Option CopCapture) : (s.setCop v).sp = s.sp := rfl
@[simp] theorem State.setCop_d (s : State) (v : Option CopCapture) : (s.setCop v).d = s.d := rfl
@[simp] theorem State.setCop_p (s : State) (v : Option CopCapture) : (s.setCop v).p = s.p := rfl
@[simp] theorem State.setCop_pc (s : State) (v : Option CopCapture) : (s.setCop v).pc = s.pc := rfl
@[simp] theorem State.setCop_tpc (s : State) (v : Option CopCapture) : (s.setCop v).tpc = s.tpc := rfl
@[simp] theorem State.setCop_z (s : State) (v : Option CopCapture) : (s.setCop v).z = s.z := rfl
@[simp] theorem State.setCop_stop (s : State) (v : Option CopCapture) : (s.setCop v).stop = s.stop := rfl
@[simp] theorem State.setCop_cop (s : State) (v : Option CopCapture) : (s.setCop v).cop = v := rfl
@[simp] theorem State.setCop_cycles (s : State) (v : Option CopCapture) : (s.setCop v).cycles = s.cycles := rfl
@[simp] theorem State.setCop_interrupted (s : State) (v : Option CopCapture) : (s.setCop v).interrupted = s.interrupted := rfl
@[simp] theorem State.setCop_trace (s : State) (v : Option CopCapture) : (s.setCop v).trace = s.trace := rfl
@[simp] theorem State.setCop_mem (s : State) (v : Option CopCapture) : (s.setCop v).mem = s.mem := rfl
@[simp] theorem State.setCop_illegal (s : State) (v : Option CopCapture) : (s.setCop v).illegal = s.illegal := rfl
@[simp] theorem State.setCop_flag (s : State) (v : Option CopCapture) (g : Flag) : (s.setCop v).flag g = s.flag g := rfl
@[simp] theorem State.setCop_read8 (s : State) (v : Option CopCapture) (c : QWord) : (s.setCop v).read8 c = s.read8 c := rfl
@[simp] theorem State.setCop_read16 (s : State) (v : Option CopCapture) (c : QWord) (o : Endian) : (s.setCop v).read16 c o = s.read16 c o := rfl
@[simp] theorem State.setCop_read32 (s : State) (v : Option CopCapture) (c : QWord) (o : Endian) : (s.setCop v).read32 c o = s.read32 c o := rfl
@[simp] theorem State.setCop_read64 (s : State) (v : Option CopCapture) (c : QWord) (o : Endian) : (s.setCop v).read64 c o = s.read64 c o := rfl

/-! ### setInterrupted -/

@[simp] theorem State.setInterrupted_a (s : State) (v : Bool) : (s.setInterrupted v).a = s.a := rfl
@[simp] theorem State.setInterrupted_b (s : State) (v : Bool) : (s.setInterrupted v).b = s.b := rfl
@[simp] theorem State.setInterrupted_x (s : State) (v : Bool) : (s.setInterrupted v).x = s.x := rfl
@[simp] theorem State.setInterrupted_y (s : State) (v : Bool) : (s.setInterrupted v).y = s.y := rfl
@[simp] theorem State.setInterrupted_sp (s : State) (v : Bool) : (s.setInterrupted v).sp = s.sp := rfl
@[simp] theorem State.setInterrupted_d (s : State) (v : Bool) : (s.setInterrupted v).d = s.d := rfl
@[simp] theorem State.setInterrupted_p (s : State) (v : Bool) : (s.setInterrupted v).p = s.p := rfl
@[simp] theorem State.setInterrupted_pc (s : State) (v : Bool) : (s.setInterrupted v).pc = s.pc := rfl
@[simp] theorem State.setInterrupted_tpc (s : State) (v : Bool) : (s.setInterrupted v).tpc = s.tpc := rfl
@[simp] theorem State.setInterrupted_z (s : State) (v : Bool) : (s.setInterrupted v).z = s.z := rfl
@[simp] theorem State.setInterrupted_stop (s : State) (v : Bool) : (s.setInterrupted v).stop = s.stop := rfl
@[simp] theorem State.setInterrupted_cop (s : State) (v : Bool) : (s.setInterrupted v).cop = s.cop := rfl
@[simp] theorem State.setInterrupted_cycles (s : State) (v : Bool) : (s.setInterrupted v).cycles = s.cycles := rfl
@[simp] theorem State.setInterrupted_interrupted (s : State) (v : Bool) : (s.setInterrupted v).interrupted = v := rfl
@[simp] theorem State.setInterrupted_trace (s : State) (v : Bool) : (s.setInterrupted v).trace = s.trace := rfl
@[simp] theorem State.setInterrupted_mem (s : State) (v : Bool) : (s.setInterrupted v).mem = s.mem := rfl
@[simp] theorem State.setInterrupted_illegal (s : State) (v : Bool) : (s.setInterrupted v).illegal = s.illegal := rfl
@[simp] theorem State.setInterrupted_flag (s : State) (v : Bool) (g : Flag) : (s.setInterrupted v).flag g = s.flag g := rfl
@[simp] theorem State.setInterrupted_read8 (s : State) (v : Bool) (c : QWord) : (s.setInterrupted v).read8 c = s.read8 c := rfl
@[simp] theorem State.setInterrupted_read16 (s : State) (v : Bool) (c : QWord) (o : Endian) : (s.setInterrupted v).read16 c o = s.read16 c o := rfl
@[simp] theorem State.setInterrupted_read32 (s : State) (v : Bool) (c : QWord) (o : Endian) : (s.setInterrupted v).read32 c o = s.read32 c o := rfl
@[simp] theorem State.setInterrupted_read64 (s : State) (v : Bool) (c : QWord) (o : Endian) : (s.setInterrupted v).read64 c o = s.read64 c o := rfl

/-! ### setMem -/

@[simp] theorem State.setMem_a (s : State) (v : Memory) : (s.setMem v).a = s.a := rfl
@[simp] theorem State.setMem_b (s : State) (v : Memory) : (s.setMem v).b = s.b := rfl
@[simp] theorem State.setMem_x (s : State) (v : Memory) : (s.setMem v).x = s.x := rfl
@[simp] theorem State.setMem_y (s : State) (v : Memory) : (s.setMem v).y = s.y := rfl
@[simp] theorem State.setMem_sp (s : State) (v : Memory) : (s.setMem v).sp = s.sp := rfl
@[simp] theorem State.setMem_d (s : State) (v : Memory) : (s.setMem v).d = s.d := rfl
@[simp] theorem State.setMem_p (s : State) (v : Memory) : (s.setMem v).p = s.p := rfl
@[simp] theorem State.setMem_pc (s : State) (v : Memory) : (s.setMem v).pc = s.pc := rfl
@[simp] theorem State.setMem_tpc (s : State) (v : Memory) : (s.setMem v).tpc = s.tpc := rfl
@[simp] theorem State.setMem_z (s : State) (v : Memory) : (s.setMem v).z = s.z := rfl
@[simp] theorem State.setMem_stop (s : State) (v : Memory) : (s.setMem v).stop = s.stop := rfl
@[simp] theorem State.setMem_cop (s : State) (v : Memory) : (s.setMem v).cop = s.cop := rfl
@[simp] theorem State.setMem_cycles (s : State) (v : Memory) : (s.setMem v).cycles = s.cycles := rfl
@[simp] theorem State.setMem_interrupted (s : State) (v : Memory) : (s.setMem v).interrupted = s.interrupted := rfl
@[simp] theorem State.setMem_trace (s : State) (v : Memory) : (s.setMem v).trace = s.trace := rfl
@[simp] theorem State.setMem_mem (s : State) (v : Memory) : (s.setMem v).mem = v := rfl
@[simp] theorem State.setMem_illegal (s : State) (v : Memory) : (s.setMem v).illegal = s.illegal := rfl
@[simp] theorem State.setMem_flag (s : State) (v : Memory) (g : Flag) : (s.setMem v).flag g = s.flag g := rfl

/-! ### setALow -/

@[simp] theorem State.setALow_a (s : State) (v : Word) : (s.setALow v).a = mergeLow s.a v := rfl
@[simp] theorem State.setALow_b (s : State) (v : Word) : (s.setALow v).b = s.b := rfl
@[simp] theorem State.setALow_x (s : State) (v : Word) : (s.setALow v).x = s.x := rfl
@[simp] theorem State.setALow_y (s : State) (v : Word) : (s.setALow v).y = s.y := rfl
@[simp] theorem State.setALow_sp (s : State) (v : Word) : (s.setALow v).sp = s.sp := rfl
@[simp] theorem State.setALow_d (s : State) (v : Word) : (s.setALow v).d = s.d := rfl
@[simp] theorem State.setALow_p (s : State) (v : Word) : (s.setALow v).p = s.p := rfl
@[simp] theorem State.setALow_pc (s : State) (v : Word) : (s.setALow v).pc = s.pc := rfl
@[simp] theorem State.setALow_tpc (s : State) (v : Word) : (s.setALow v).tpc = s.tpc := rfl
@[simp] theorem State.setALow_z (s : State) (v : Word) : (s.setALow v).z = s.z := rfl
@[simp] theorem State.setALow_stop (s : State) (v : Word) : (s.setALow v).stop = s.stop := rfl
@[simp] theorem State.setALow_cop (s : State) (v : Word) : (s.setALow v).cop = s.cop := rfl
@[simp] theorem State.setALow_cycles (s : State) (v : Word) : (s.setALow v).cycles = s.cycles := rfl
@[simp] theorem State.setALow_interrupted (s : State) (v : Word) : (s.setALow v).interrupted = s.interrupted := rfl
@[simp] theorem State.setALow_trace (s : State) (v : Word) : (s.setALow v).trace = s.trace := rfl
@[simp] theorem State.setALow_mem (s : State) (v : Word) : (s.setALow v).mem = s.mem := rfl
@[simp] theorem State.setALow_illegal (s : State) (v : Word) : (s.setALow v).illegal = s.illegal := rfl
@[simp] theorem State.setALow_flag (s : State) (v : Word) (g : Flag) : (s.setALow v).flag g = s.flag g := rfl
@[simp] theorem State.setALow_read8 (s : State) (v : Word) (c : QWord) : (s.setALow v).read8 c = s.read8 c := rfl
@[simp] theorem State.setALow_read16 (s : State) (v : Word) (c : QWord) (o : Endian) : (s.setALow v).read16 c o = s.read16 c o := rfl
@[simp] theorem State.setALow_read32 (s : State) (v : Word) (c : QWord) (o : Endian) : (s.setALow v).read32 c o = s.read32 c o := rfl
@[simp] theorem State.setALow_read64 (s : State) (v : Word) (c : QWord) (o : Endian) : (s.setALow v).read64 c o = s.read64 c o := rfl

/-! ### setXLow -/

@[simp] theorem State.setXLow_a (s : State) (v : Word) : (s.setXLow v).a = s.a := rfl
@[simp] theorem State.setXLow_b (s : State) (v : Word) : (s.setXLow v).b = s.b := rfl
@[simp] theorem State.setXLow_x (s : State) (v : Word) : (s.setXLow v).x = mergeLow s.x v := rfl
@[simp] theorem State.setXLow_y (s : State) (v : Word) : (s.setXLow v).y = s.y := rfl
@[simp] theorem State.setXLow_sp (s : State) (v : Word) : (s.setXLow v).sp = s.sp := rfl
@[simp] theorem State.setXLow_d (s : State) (v : Word) : (s.setXLow v).d = s.d := rfl
@[simp] theorem State.setXLow_p (s : State) (v : Word) : (s.setXLow v).p = s.p := rfl
@[simp] theorem State.setXLow_pc (s : State) (v : Word) : (s.setXLow v).pc = s.pc := rfl
@[simp] theorem State.setXLow_tpc (s : State) (v : Word) : (s.setXLow v).tpc = s.tpc := rfl
@[simp] theorem State.setXLow_z (s : State) (v : Word) : (s.setXLow v).z = s.z := rfl
@[simp] theorem State.setXLow_stop (s : State) (v : Word) : (s.setXLow v).stop = s.stop := rfl
@[simp] theorem State.setXLow_cop (s : State) (v : Word) : (s.setXLow v).cop = s.cop := rfl
@[simp] theorem State.setXLow_cycles (s : State) (v : Word) : (s.setXLow v).cycles = s.cycles := rfl
@[simp] theorem State.setXLow_interrupted (s : State) (v : Word) : (s.setXLow v).interrupted = s.interrupted := rfl
@[simp] theorem State.setXLow_trace (s : State) (v : Word) : (s.setXLow v).trace = s.trace := rfl
@[simp] theorem State.setXLow_mem (s : State) (v : Word) : (s.setXLow v).mem = s.mem := rfl
@[simp] theorem State.setXLow_illegal (s : State) (v : Word) : (s.setXLow v).illegal = s.illegal := rfl
@[simp] theorem State.setXLow_flag (s : State) (v : Word) (g : Flag) : (s.setXLow v).flag g = s.flag g := rfl
@[simp] theorem State.setXLow_read8 (s : State) (v : Word) (c : QWord) : (s.setXLow v).read8 c = s.read8 c := rfl
@[simp] theorem State.setXLow_read16 (s : State) (v : Word) (c : QWord) (o : Endian) : (s.setXLow v).read16 c o = s.read16 c o := rfl
@[simp] theorem State.setXLow_read32 (s : State) (v : Word) (c : QWord) (o : Endian) : (s.setXLow v).read32 c o = s.read32 c o := rfl
@[simp] theorem State.setXLow_read64 (s : State) (v : Word) (c : QWord) (o : Endian) : (s.setXLow v).read64 c o = s.read64 c o := rfl

/-! ### setYLow -/

@[simp] theorem State.setYLow_a (s : State) (v : Word) : (s.setYLow v).a = s.a := rfl
@[simp] theorem State.setYLow_b (s : State) (v : Word) : (s.setYLow v).b = s.b := rfl
@[simp] theorem State.setYLow_x (s : State) (v : Word) : (s.setYLow v).x = s.x := rfl
@[simp] theorem State.setYLow_y (s : State) (v : Word) : (s.setYLow v).y = mergeLow s.y v := rfl
@[simp] theorem State.setYLow_sp (s : State) (v : Word) : (s.setYLow v).sp = s.sp := rfl
@[simp] theorem State.setYLow_d (s : State) (v : Word) : (s.setYLow v).d = s.d := rfl
@[simp] theorem State.setYLow_p (s : State) (v : Word) : (s.setYLow v).p = s.p := rfl
@[simp] theorem State.setYLow_pc (s : State) (v : Word) : (s.setYLow v).pc = s.pc := rfl
@[simp] theorem State.setYLow_tpc (s : State) (v : Word) : (s.setYLow v).tpc = s.tpc := rfl
@[simp] theorem State.setYLow_z (s : State) (v : Word) : (s.setYLow v).z = s.z := rfl
@[simp] theorem State.setYLow_stop (s : State) (v : Word) : (s.setYLow v).stop = s.stop := rfl
@[simp] theorem State.setYLow_cop (s : State) (v : Word) : (s.setYLow v).cop = s.cop := rfl
@[simp] theorem State.setYLow_cycles (s : State) (v : Word) : (s.setYLow v).cycles = s.cycles := rfl
@[simp] theorem State.setYLow_interrupted (s : State) (v : Word) : (s.setYLow v).interrupted = s.interrupted := rfl
@[simp] theorem State.setYLow_trace (s : State) (v : Word) : (s.setYLow v).trace = s.trace := rfl
@[simp] theorem State.setYLow_mem (s : State) (v : Word) : (s.setYLow v).mem = s.mem := rfl
@[simp] theorem State.setYLow_illegal (s : State) (v : Word) : (s.setYLow v).illegal = s.illegal := rfl
@[simp] theorem State.setYLow_flag (s : State) (v : Word) (g : Flag) : (s.setYLow v).flag g = s.flag g := rfl
@[simp] theorem State.setYLow_read8 (s : State) (v : Word) (c : QWord) : (s.setYLow v).read8 c = s.read8 c := rfl
@[simp] theorem State.setYLow_read16 (s : State) (v : Word) (c : QWord) (o : Endian) : (s.setYLow v).read16 c o = s.read16 c o := rfl
@[simp] theorem State.setYLow_read32 (s : State) (v : Word) (c : QWord) (o : Endian) : (s.setYLow v).read32 c o = s.read32 c o := rfl
@[simp] theorem State.setYLow_read64 (s : State) (v : Word) (c : QWord) (o : Endian) : (s.setYLow v).read64 c o = s.read64 c o := rfl

/-! ### charge -/

@[simp] theorem State.charge_a (s : State) (n : Nat) : (s.charge n).a = s.a := rfl
@[simp] theorem State.charge_b (s : State) (n : Nat) : (s.charge n).b = s.b := rfl
@[simp] theorem State.charge_x (s : State) (n : Nat) : (s.charge n).x = s.x := rfl
@[simp] theorem State.charge_y (s : State) (n : Nat) : (s.charge n).y = s.y := rfl
@[simp] theorem State.charge_sp (s : State) (n : Nat) : (s.charge n).sp = s.sp := rfl
@[simp] theorem State.charge_d (s : State) (n : Nat) : (s.charge n).d = s.d := rfl
@[simp] theorem State.charge_p (s : State) (n : Nat) : (s.charge n).p = s.p := rfl
@[simp] theorem State.charge_pc (s : State) (n : Nat) : (s.charge n).pc = s.pc := rfl
@[simp] theorem State.charge_tpc (s : State) (n : Nat) : (s.charge n).tpc = s.tpc := rfl
@[simp] theorem State.charge_z (s : State) (n : Nat) : (s.charge n).z = s.z := rfl
@[simp] theorem State.charge_stop (s : State) (n : Nat) : (s.charge n).stop = s.stop := rfl
@[simp] theorem State.charge_cop (s : State) (n : Nat) : (s.charge n).cop = s.cop := rfl
@[simp] theorem State.charge_cycles (s : State) (n : Nat) : (s.charge n).cycles = s.cycles + BitVec.ofNat 64 n := rfl
@[simp] theorem State.charge_interrupted (s : State) (n : Nat) : (s.charge n).interrupted = s.interrupted := rfl
@[simp] theorem State.charge_trace (s : State) (n : Nat) : (s.charge n).trace = s.trace := rfl
@[simp] theorem State.charge_mem (s : State) (n : Nat) : (s.charge n).mem = s.mem := rfl
@[simp] theorem State.charge_illegal (s : State) (n : Nat) : (s.charge n).illegal = s.illegal := rfl
@[simp] theorem State.charge_flag (s : State) (n : Nat) (g : Flag) : (s.charge n).flag g = s.flag g := rfl
@[simp] theorem State.charge_read8 (s : State) (n : Nat) (c : QWord) : (s.charge n).read8 c = s.read8 c := rfl
@[simp] theorem State.charge_read16 (s : State) (n : Nat) (c : QWord) (o : Endian) : (s.charge n).read16 c o = s.read16 c o := rfl
@[simp] theorem State.charge_read32 (s : State) (n : Nat) (c : QWord) (o : Endian) : (s.charge n).read32 c o = s.read32 c o := rfl
@[simp] theorem State.charge_read64 (s : State) (n : Nat) (c : QWord) (o : Endian) : (s.charge n).read64 c o = s.read64 c o := rfl

/-! ### setFlag -/

@[simp] theorem State.setFlag_a (s : State) (f : Flag) (v : Bool) : (s.setFlag f v).a = s.a := rfl
@[simp] theorem State.setFlag_b (s : State) (f : Flag) (v : Bool) : (s.setFlag f v).b = s.b := rfl
@[simp] theorem State.setFlag_x (s : State) (f : Flag) (v : Bool) : (s.setFlag f v).x = s.x := rfl
@[simp] theorem State.setFlag_y (s : State) (f : Flag) (v : Bool) : (s.setFlag f v).y = s.y := rfl
@[simp] theorem State.setFlag_sp (s : State) (f : Flag) (v : Bool) : (s.setFlag f v).sp = s.sp := rfl
@[simp] theorem State.setFlag_d (s : State) (f : Flag) (v : Bool) : (s.setFlag f v).d = s.d := rfl
@[simp] theorem State.setFlag_p (s : State) (f : Flag) (v : Bool) : (s.setFlag f v).p = setFlagBit s.p f v := rfl
@[simp] theorem State.setFlag_pc (s : State) (f : Flag) (v : Bool) : (s.setFlag f v).pc = s.pc := rfl
@[simp] theorem State.setFlag_tpc (s : State) (f : Flag) (v : Bool) : (s.setFlag f v).tpc = s.tpc := rfl
@[simp] theorem State.setFlag_z (s : State) (f : Flag) (v : Bool) : (s.setFlag f v).z = s.z := rfl
@[simp] theorem State.setFlag_stop (s : State) (f : Flag) (v : Bool) : (s.setFlag f v).stop = s.stop := rfl
@[simp] theorem State.setFlag_cop (s : State) (f : Flag) (v : Bool) : (s.setFlag f v).cop = s.cop := rfl
@[simp] theorem State.setFlag_cycles (s : State) (f : Flag) (v : Bool) : (s.setFlag f v).cycles = s.cycles := rfl
@[simp] theorem State.setFlag_interrupted (s : State) (f : Flag) (v : Bool) : (s.setFlag f v).interrupted = s.interrupted := rfl
@[simp] theorem State.setFlag_trace (s : State) (f : Flag) (v : Bool) : (s.setFlag f v).trace = s.trace := rfl
@[simp] theorem State.setFlag_mem (s : State) (f : Flag) (v : Bool) : (s.setFlag f v).mem = s.mem := rfl
@[simp] theorem State.setFlag_illegal (s : State) (f : Flag) (v : Bool) : (s.setFlag f v).illegal = s.illegal := rfl
@[simp] theorem State.setFlag_read8 (s : State) (f : Flag) (v : Bool) (c : QWord) : (s.setFlag f v).read8 c = s.read8 c := rfl
@[simp] theorem State.setFlag_read16 (s : State) (f : Flag) (v : Bool) (c : QWord) (o : Endian) : (s.setFlag f v).read16 c o = s.read16 c o := rfl
@[simp] theorem State.setFlag_read32 (s : State) (f : Flag) (v : Bool) (c : QWord) (o : Endian) : (s.setFlag f v).read32 c o = s.read32 c o := rfl
@[simp] theorem State.setFlag_read64 (s : State) (f : Flag) (v : Bool) (c : QWord) (o : Endian) : (s.setFlag f v).read64 c o = s.read64 c o := rfl

/-! ### setNZ64 -/

@[simp] theorem State.setNZ64_a (s : State) (v : QWord) : (s.setNZ64 v).a = s.a := rfl
@[simp] theorem State.setNZ64_b (s : State) (v : QWord) : (s.setNZ64 v).b = s.b := rfl
@[simp] theorem State.setNZ64_x (s : State) (v : QWord) : (s.setNZ64 v).x = s.x := rfl
@[simp] theorem State.setNZ64_y (s : State) (v : QWord) : (s.setNZ64 v).y = s.y := rfl
@[simp] theorem State.setNZ64_sp (s : State) (v : QWord) : (s.setNZ64 v).sp = s.sp := rfl
@[simp] theorem State.setNZ64_d (s : State) (v : QWord) : (s.setNZ64 v).d = s.d := rfl
@[simp] theorem State.setNZ64_p (s : State) (v : QWord) : (s.setNZ64 v).p = setFlagBit (setFlagBit s.p .negative v.msb) .zero (v == 0) := rfl
@[simp] theorem State.setNZ64_pc (s : State) (v : QWord) : (s.setNZ64 v).pc = s.pc := rfl
@[simp] theorem State.setNZ64_tpc (s : State) (v : QWord) : (s.setNZ64 v).tpc = s.tpc := rfl
@[simp] theorem State.setNZ64_z (s : State) (v : QWord) : (s.setNZ64 v).z = s.z := rfl
@[simp] theorem State.setNZ64_stop (s : State) (v : QWord) : (s.setNZ64 v).stop = s.stop := rfl
@[simp] theorem State.setNZ64_cop (s : State) (v : QWord) : (s.setNZ64 v).cop = s.cop := rfl
@[simp] theorem State.setNZ64_cycles (s : State) (v : QWord) : (s.setNZ64 v).cycles = s.cycles := rfl
@[simp] theorem State.setNZ64_interrupted (s : State) (v : QWord) : (s.setNZ64 v).interrupted = s.interrupted := rfl
@[simp] theorem State.setNZ64_trace (s : State) (v : QWord) : (s.setNZ64 v).trace = s.trace := rfl
@[simp] theorem State.setNZ64_mem (s : State) (v : QWord) : (s.setNZ64 v).mem = s.mem := rfl
@[simp] theorem State.setNZ64_illegal (s : State) (v : QWord) : (s.setNZ64 v).illegal = s.illegal := rfl
@[simp] theorem State.setNZ64_read8 (s : State) (v : QWord) (c : QWord) : (s.setNZ64 v).read8 c = s.read8 c := rfl
@[simp] theorem State.setNZ64_read16 (s : State) (v : QWord) (c : QWord) (o : Endian) : (s.setNZ64 v).read16 c o = s.read16 c o := rfl
@[simp] theorem State.setNZ64_read32 (s : State) (v : QWord) (c : QWord) (o : Endian) : (s.setNZ64 v).read32 c o = s.read32 c o := rfl
@[simp] theorem State.setNZ64_read64 (s : State) (v : QWord) (c : QWord) (o : Endian) : (s.setNZ64 v).read64 c o = s.read64 c o := rfl

/-! ### setNZ16 -/

@[simp] theorem State.setNZ16_a (s : State) (v : Word) : (s.setNZ16 v).a = s.a := rfl
@[simp] theorem State.setNZ16_b (s : State) (v : Word) : (s.setNZ16 v).b = s.b := rfl
@[simp] theorem State.setNZ16_x (s : State) (v : Word) : (s.setNZ16 v).x = s.x := rfl
@[simp] theorem State.setNZ16_y (s : State) (v : Word) : (s.setNZ16 v).y = s.y := rfl
@[simp] theorem State.setNZ16_sp (s : State) (v : Word) : (s.setNZ16 v).sp = s.sp := rfl
@[simp] theorem State.setNZ16_d (s : State) (v : Word) : (s.setNZ16 v).d = s.d := rfl
@[simp] theorem State.setNZ16_p (s : State) (v : Word) : (s.setNZ16 v).p = setFlagBit (setFlagBit s.p .negative v.msb) .zero (v == 0) := rfl
@[simp] theorem State.setNZ16_pc (s : State) (v : Word) : (s.setNZ16 v).pc = s.pc := rfl
@[simp] theorem State.setNZ16_tpc (s : State) (v : Word) : (s.setNZ16 v).tpc = s.tpc := rfl
@[simp] theorem State.setNZ16_z (s : State) (v : Word) : (s.setNZ16 v).z = s.z := rfl
@[simp] theorem State.setNZ16_stop (s : State) (v : Word) : (s.setNZ16 v).stop = s.stop := rfl
@[simp] theorem State.setNZ16_cop (s : State) (v : Word) : (s.setNZ16 v).cop = s.cop := rfl
@[simp] theorem State.setNZ16_cycles (s : State) (v : Word) : (s.setNZ16 v).cycles = s.cycles := rfl
@[simp] theorem State.setNZ16_interrupted (s : State) (v : Word) : (s.setNZ16 v).interrupted = s.interrupted := rfl
@[simp] theorem State.setNZ16_trace (s : State) (v : Word) : (s.setNZ16 v).trace = s.trace := rfl
@[simp] theorem State.setNZ16_mem (s : State) (v : Word) : (s.setNZ16 v).mem = s.mem := rfl
@[simp] theorem State.setNZ16_illegal (s : State) (v : Word) : (s.setNZ16 v).illegal = s.illegal := rfl
@[simp] theorem State.setNZ16_read8 (s : State) (v : Word) (c : QWord) : (s.setNZ16 v).read8 c = s.read8 c := rfl
@[simp] theorem State.setNZ16_read16 (s : State) (v : Word) (c : QWord) (o : Endian) : (s.setNZ16 v).read16 c o = s.read16 c o := rfl
@[simp] theorem State.setNZ16_read32 (s : State) (v : Word) (c : QWord) (o : Endian) : (s.setNZ16 v).read32 c o = s.read32 c o := rfl
@[simp] theorem State.setNZ16_read64 (s : State) (v : Word) (c : QWord) (o : Endian) : (s.setNZ16 v).read64 c o = s.read64 c o := rfl

/-! ### fetched -/

@[simp] theorem State.fetched_a (s : State) : (s.fetched).a = s.a := rfl
@[simp] theorem State.fetched_b (s : State) : (s.fetched).b = s.b := rfl
@[simp] theorem State.fetched_x (s : State) : (s.fetched).x = s.x := rfl
@[simp] theorem State.fetched_y (s : State) : (s.fetched).y = s.y := rfl
@[simp] theorem State.fetched_sp (s : State) : (s.fetched).sp = s.sp := rfl
@[simp] theorem State.fetched_d (s : State) : (s.fetched).d = s.d := rfl
@[simp] theorem State.fetched_p (s : State) : (s.fetched).p = s.p := rfl
@[simp] theorem State.fetched_pc (s : State) : (s.fetched).pc = s.pc + 1 := rfl
@[simp] theorem State.fetched_tpc (s : State) : (s.fetched).tpc = s.pc := rfl
@[simp] theorem State.fetched_z (s : State) : (s.fetched).z = s.z := rfl
@[simp] theorem State.fetched_stop (s : State) : (s.fetched).stop = s.stop := rfl
@[simp] theorem State.fetched_cop (s : State) : (s.fetched).cop = s.cop := rfl
@[simp] theorem State.fetched_cycles (s : State) : (s.fetched).cycles = s.cycles + BitVec.ofNat 64 Config.fetchCyc := rfl
@[simp] theorem State.fetched_interrupted (s : State) : (s.fetched).interrupted = s.interrupted := rfl
@[simp] theorem State.fetched_trace (s : State) : (s.fetched).trace = s.trace := rfl
@[simp] theorem State.fetched_mem (s : State) : (s.fetched).mem = s.mem := rfl
@[simp] theorem State.fetched_illegal (s : State) : (s.fetched).illegal = s.illegal := rfl
@[simp] theorem State.fetched_flag (s : State) (g : Flag) : (s.fetched).flag g = s.flag g := rfl
@[simp] theorem State.fetched_read8 (s : State) (c : QWord) : (s.fetched).read8 c = s.read8 c := rfl
@[simp] theorem State.fetched_read16 (s : State) (c : QWord) (o : Endian) : (s.fetched).read16 c o = s.read16 c o := rfl
@[simp] theorem State.fetched_read32 (s : State) (c : QWord) (o : Endian) : (s.fetched).read32 c o = s.read32 c o := rfl
@[simp] theorem State.fetched_read64 (s : State) (c : QWord) (o : Endian) : (s.fetched).read64 c o = s.read64 c o := rfl

/-! ### resolved -/

@[simp] theorem State.resolved_a (s : State) (m : Mode) : (s.resolved m).a = s.a := rfl
@[simp] theorem State.resolved_b (s : State) (m : Mode) : (s.resolved m).b = s.b := rfl
@[simp] theorem State.resolved_x (s : State) (m : Mode) : (s.resolved m).x = s.x := rfl
@[simp] theorem State.resolved_y (s : State) (m : Mode) : (s.resolved m).y = s.y := rfl
@[simp] theorem State.resolved_sp (s : State) (m : Mode) : (s.resolved m).sp = s.sp := rfl
@[simp] theorem State.resolved_d (s : State) (m : Mode) : (s.resolved m).d = s.d := rfl
@[simp] theorem State.resolved_p (s : State) (m : Mode) : (s.resolved m).p = s.p := rfl
@[simp] theorem State.resolved_pc (s : State) (m : Mode) : (s.resolved m).pc = s.pc + BitVec.ofNat 64 m.operandBytes := rfl
@[simp] theorem State.resolved_tpc (s : State) (m : Mode) : (s.resolved m).tpc = s.tpc := rfl
@[simp] theorem State.resolved_z (s : State) (m : Mode) : (s.resolved m).z = s.z := rfl
@[simp] theorem State.resolved_stop (s : State) (m : Mode) : (s.resolved m).stop = s.stop := rfl
@[simp] theorem State.resolved_cop (s : State) (m : Mode) : (s.resolved m).cop = s.cop := rfl
@[simp] theorem State.resolved_cycles (s : State) (m : Mode) : (s.resolved m).cycles = s.cycles + BitVec.ofNat 64 (baseCycles m) := rfl
@[simp] theorem State.resolved_interrupted (s : State) (m : Mode) : (s.resolved m).interrupted = s.interrupted := rfl
@[simp] theorem State.resolved_trace (s : State) (m : Mode) : (s.resolved m).trace = s.trace := rfl
@[simp] theorem State.resolved_mem (s : State) (m : Mode) : (s.resolved m).mem = s.mem := rfl
@[simp] theorem State.resolved_illegal (s : State) (m : Mode) : (s.resolved m).illegal = s.illegal := rfl
@[simp] theorem State.resolved_flag (s : State) (m : Mode) (g : Flag) : (s.resolved m).flag g = s.flag g := rfl
@[simp] theorem State.resolved_read8 (s : State) (m : Mode) (c : QWord) : (s.resolved m).read8 c = s.read8 c := rfl
@[simp] theorem State.resolved_read16 (s : State) (m : Mode) (c : QWord) (o : Endian) : (s.resolved m).read16 c o = s.read16 c o := rfl
@[simp] theorem State.resolved_read32 (s : State) (m : Mode) (c : QWord) (o : Endian) : (s.resolved m).read32 c o = s.read32 c o := rfl
@[simp] theorem State.resolved_read64 (s : State) (m : Mode) (c : QWord) (o : Endian) : (s.resolved m).read64 c o = s.read64 c o := rfl

/-! ### write8 -/

@[simp] theorem State.write8_a (s : State) (a : QWord) (v : Byte) : (s.write8 a v).a = s.a := rfl
@[simp] theorem State.write8_b (s : State) (a : QWord) (v : Byte) : (s.write8 a v).b = s.b := rfl
@[simp] theorem State.write8_x (s : State) (a : QWord) (v : Byte) : (s.write8 a v).x = s.x := rfl
@[simp] theorem State.write8_y (s : State) (a : QWord) (v : Byte) : (s.write8 a v).y = s.y := rfl
@[simp] theorem State.write8_sp (s : State) (a : QWord) (v : Byte) : (s.write8 a v).sp = s.sp := rfl
@[simp] theorem State.write8_d (s : State) (a : QWord) (v : Byte) : (s.write8 a v).d = s.d := rfl
@[simp] theorem State.write8_p (s : State) (a : QWord) (v : Byte) : (s.write8 a v).p = s.p := rfl
@[simp] theorem State.write8_pc (s : State) (a : QWord) (v : Byte) : (s.write8 a v).pc = s.pc := rfl
@[simp] theorem State.write8_tpc (s : State) (a : QWord) (v : Byte) : (s.write8 a v).tpc = s.tpc := rfl
@[simp] theorem State.write8_z (s : State) (a : QWord) (v : Byte) : (s.write8 a v).z = s.z := rfl
@[simp] theorem State.write8_stop (s : State) (a : QWord) (v : Byte) : (s.write8 a v).stop = s.stop := rfl
@[simp] theorem State.write8_cop (s : State) (a : QWord) (v : Byte) : (s.write8 a v).cop = s.cop := rfl
@[simp] theorem State.write8_cycles (s : State) (a : QWord) (v : Byte) : (s.write8 a v).cycles = s.cycles := rfl
@[simp] theorem State.write8_interrupted (s : State) (a : QWord) (v : Byte) : (s.write8 a v).interrupted = s.interrupted := rfl
@[simp] theorem State.write8_trace (s : State) (a : QWord) (v : Byte) : (s.write8 a v).trace = s.trace := rfl
@[simp] theorem State.write8_mem (s : State) (a : QWord) (v : Byte) : (s.write8 a v).mem = s.mem.write a 1 v.toNat := rfl
@[simp] theorem State.write8_illegal (s : State) (a : QWord) (v : Byte) : (s.write8 a v).illegal = s.illegal := rfl
@[simp] theorem State.write8_flag (s : State) (a : QWord) (v : Byte) (g : Flag) : (s.write8 a v).flag g = s.flag g := rfl

/-! ### write16 -/

@[simp] theorem State.write16_a (s : State) (a : QWord) (v : Word) (o : Endian) : (s.write16 a v o).a = s.a := rfl
@[simp] theorem State.write16_b (s : State) (a : QWord) (v : Word) (o : Endian) : (s.write16 a v o).b = s.b := rfl
@[simp] theorem State.write16_x (s : State) (a : QWord) (v : Word) (o : Endian) : (s.write16 a v o).x = s.x := rfl
@[simp] theorem State.write16_y (s : State) (a : QWord) (v : Word) (o : Endian) : (s.write16 a v o).y = s.y := rfl
@[simp] theorem State.write16_sp (s : State) (a : QWord) (v : Word) (o : Endian) : (s.write16 a v o).sp = s.sp := rfl
@[simp] theorem State.write16_d (s : State) (a : QWord) (v : Word) (o : Endian) : (s.write16 a v o).d = s.d := rfl
@[simp] theorem State.write16_p (s : State) (a : QWord) (v : Word) (o : Endian) : (s.write16 a v o).p = s.p := rfl
@[simp] theorem State.write16_pc (s : State) (a : QWord) (v : Word) (o : Endian) : (s.write16 a v o).pc = s.pc := rfl
@[simp] theorem State.write16_tpc (s : State) (a : QWord) (v : Word) (o : Endian) : (s.write16 a v o).tpc = s.tpc := rfl
@[simp] theorem State.write16_z (s : State) (a : QWord) (v : Word) (o : Endian) : (s.write16 a v o).z = s.z := rfl
@[simp] theorem State.write16_stop (s : State) (a : QWord) (v : Word) (o : Endian) : (s.write16 a v o).stop = s.stop := rfl
@[simp] theorem State.write16_cop (s : State) (a : QWord) (v : Word) (o : Endian) : (s.write16 a v o).cop = s.cop := rfl
@[simp] theorem State.write16_cycles (s : State) (a : QWord) (v : Word) (o : Endian) : (s.write16 a v o).cycles = s.cycles := rfl
@[simp] theorem State.write16_interrupted (s : State) (a : QWord) (v : Word) (o : Endian) : (s.write16 a v o).interrupted = s.interrupted := rfl
@[simp] theorem State.write16_trace (s : State) (a : QWord) (v : Word) (o : Endian) : (s.write16 a v o).trace = s.trace := rfl
@[simp] theorem State.write16_mem (s : State) (a : QWord) (v : Word) (o : Endian) : (s.write16 a v o).mem = s.mem.write a 2 v.toNat o := rfl
@[simp] theorem State.write16_illegal (s : State) (a : QWord) (v : Word) (o : Endian) : (s.write16 a v o).illegal = s.illegal := rfl
@[simp] theorem State.write16_flag (s : State) (a : QWord) (v : Word) (o : Endian) (g : Flag) : (s.write16 a v o).flag g = s.flag g := rfl

/-! ### write64 -/

@[simp] theorem State.write64_a (s : State) (a : QWord) (v : QWord) (o : Endian) : (s.write64 a v o).a = s.a := rfl
@[simp] theorem State.write64_b (s : State) (a : QWord) (v : QWord) (o : Endian) : (s.write64 a v o).b = s.b := rfl
@[simp] theorem State.write64_x (s : State) (a : QWord) (v : QWord) (o : Endian) : (s.write64 a v o).x = s.x := rfl
@[simp] theorem State.write64_y (s : State) (a : QWord) (v : QWord) (o : Endian) : (s.write64 a v o).y = s.y := rfl
@[simp] theorem State.write64_sp (s : State) (a : QWord) (v : QWord) (o : Endian) : (s.write64 a v o).sp = s.sp := rfl
@[simp] theorem State.write64_d (s : State) (a : QWord) (v : QWord) (o : Endian) : (s.write64 a v o).d = s.d := rfl
@[simp] theorem State.write64_p (s : State) (a : QWord) (v : QWord) (o : Endian) : (s.write64 a v o).p = s.p := rfl
@[simp] theorem State.write64_pc (s : State) (a : QWord) (v : QWord) (o : Endian) : (s.write64 a v o).pc = s.pc := rfl
@[simp] theorem State.write64_tpc (s : State) (a : QWord) (v : QWord) (o : Endian) : (s.write64 a v o).tpc = s.tpc := rfl
@[simp] theorem State.write64_z (s : State) (a : QWord) (v : QWord) (o : Endian) : (s.write64 a v o).z = s.z := rfl
@[simp] theorem State.write64_stop (s : State) (a : QWord) (v : QWord) (o : Endian) : (s.write64 a v o).stop = s.stop := rfl
@[simp] theorem State.write64_cop (s : State) (a : QWord) (v : QWord) (o : Endian) : (s.write64 a v o).cop = s.cop := rfl
@[simp] theorem State.write64_cycles (s : State) (a : QWord) (v : QWord) (o : Endian) : (s.write64 a v o).cycles = s.cycles := rfl
@[simp] theorem State.write64_interrupted (s : State) (a : QWord) (v : QWord) (o : Endian) : (s.write64 a v o).interrupted = s.interrupted := rfl
@[simp] theorem State.write64_trace (s : State) (a : QWord) (v : QWord) (o : Endian) : (s.write64 a v o).trace = s.trace := rfl
@[simp] theorem State.write64_mem (s : State) (a : QWord) (v : QWord) (o : Endian) : (s.write64 a v o).mem = s.mem.write a 8 v.toNat o := rfl
@[simp] theorem State.write64_illegal (s : State) (a : QWord) (v : QWord) (o : Endian) : (s.write64 a v o).illegal = s.illegal := rfl
@[simp] theorem State.write64_flag (s : State) (a : QWord) (v : QWord) (o : Endian) (g : Flag) : (s.write64 a v o).flag g = s.flag g := rfl

/-! ### push8 -/

@[simp] theorem State.push8_a (s : State) (v : Byte) : (s.push8 v).a = s.a := rfl
@[simp] theorem State.push8_b (s : State) (v : Byte) : (s.push8 v).b = s.b := rfl
@[simp] theorem State.push8_x (s : State) (v : Byte) : (s.push8 v).x = s.x := rfl
@[simp] theorem State.push8_y (s : State) (v : Byte) : (s.push8 v).y = s.y := rfl
@[simp] theorem State.push8_sp (s : State) (v : Byte) : (s.push8 v).sp = s.sp - 1 := rfl
@[simp] theorem State.push8_d (s : State) (v : Byte) : (s.push8 v).d = s.d := rfl
@[simp] theorem State.push8_p (s : State) (v : Byte) : (s.push8 v).p = s.p := rfl
@[simp] theorem State.push8_pc (s : State) (v : Byte) : (s.push8 v).pc = s.pc := rfl
@[simp] theorem State.push8_tpc (s : State) (v : Byte) : (s.push8 v).tpc = s.tpc := rfl
@[simp] theorem State.push8_z (s : State) (v : Byte) : (s.push8 v).z = s.z := rfl
@[simp] theorem State.push8_stop (s : State) (v : Byte) : (s.push8 v).stop = s.stop := rfl
@[simp] theorem State.push8_cop (s : State) (v : Byte) : (s.push8 v).cop = s.cop := rfl
@[simp] theorem State.push8_cycles (s : State) (v : Byte) : (s.push8 v).cycles = s.cycles := rfl
@[simp] theorem State.push8_interrupted (s : State) (v : Byte) : (s.push8 v).interrupted = s.interrupted := rfl
@[simp] theorem State.push8_trace (s : State) (v : Byte) : (s.push8 v).trace = s.trace := rfl
@[simp] theorem State.push8_mem (s : State) (v : Byte) : (s.push8 v).mem = s.mem.write s.sp 1 v.toNat := rfl
@[simp] theorem State.push8_illegal (s : State) (v : Byte) : (s.push8 v).illegal = s.illegal := rfl
@[simp] theorem State.push8_flag (s : State) (v : Byte) (g : Flag) : (s.push8 v).flag g = s.flag g := rfl

/-! ### push16 -/

@[simp] theorem State.push16_a (s : State) (v : Word) (o : Endian) : (s.push16 v o).a = s.a := rfl
@[simp] theorem State.push16_b (s : State) (v : Word) (o : Endian) : (s.push16 v o).b = s.b := rfl
@[simp] theorem State.push16_x (s : State) (v : Word) (o : Endian) : (s.push16 v o).x = s.x := rfl
@[simp] theorem State.push16_y (s : State) (v : Word) (o : Endian) : (s.push16 v o).y = s.y := rfl
@[simp] theorem State.push16_sp (s : State) (v : Word) (o : Endian) : (s.push16 v o).sp = s.sp - 2 := rfl
@[simp] theorem State.push16_d (s : State) (v : Word) (o : Endian) : (s.push16 v o).d = s.d := rfl
@[simp] theorem State.push16_p (s : State) (v : Word) (o : Endian) : (s.push16 v o).p = s.p := rfl
@[simp] theorem State.push16_pc (s : State) (v : Word) (o : Endian) : (s.push16 v o).pc = s.pc := rfl
@[simp] theorem State.push16_tpc (s : State) (v : Word) (o : Endian) : (s.push16 v o).tpc = s.tpc := rfl
@[simp] theorem State.push16_z (s : State) (v : Word) (o : Endian) : (s.push16 v o).z = s.z := rfl
@[simp] theorem State.push16_stop (s : State) (v : Word) (o : Endian) : (s.push16 v o).stop = s.stop := rfl
@[simp] theorem State.push16_cop (s : State) (v : Word) (o : Endian) : (s.push16 v o).cop = s.cop := rfl
@[simp] theorem State.push16_cycles (s : State) (v : Word) (o : Endian) : (s.push16 v o).cycles = s.cycles := rfl
@[simp] theorem State.push16_interrupted (s : State) (v : Word) (o : Endian) : (s.push16 v o).interrupted = s.interrupted := rfl
@[simp] theorem State.push16_trace (s : State) (v : Word) (o : Endian) : (s.push16 v o).trace = s.trace := rfl
@[simp] theorem State.push16_mem (s : State) (v : Word) (o : Endian) : (s.push16 v o).mem = s.mem.write s.sp 2 v.toNat o := rfl
@[simp] theorem State.push16_illegal (s : State) (v : Word) (o : Endian) : (s.push16 v o).illegal = s.illegal := rfl
@[simp] theorem State.push16_flag (s : State) (v : Word) (o : Endian) (g : Flag) : (s.push16 v o).flag g = s.flag g := rfl

/-! ### pull8 -/

@[simp] theorem State.pull8_a (s : State) : (s.pull8).a = s.a := rfl
@[simp] theorem State.pull8_b (s : State) : (s.pull8).b = s.b := rfl
@[simp] theorem State.pull8_x (s : State) : (s.pull8).x = s.x := rfl
@[simp] theorem State.pull8_y (s : State) : (s.pull8).y = s.y := rfl
@[simp] theorem State.pull8_sp (s : State) : (s.pull8).sp = s.sp + 1 := rfl
@[simp] theorem State.pull8_d (s : State) : (s.pull8).d = s.d := rfl
@[simp] theorem State.pull8_p (s : State) : (s.pull8).p = s.p := rfl
@[simp] theorem State.pull8_pc (s : State) : (s.pull8).pc = s.pc := rfl
@[simp] theorem State.pull8_tpc (s : State) : (s.pull8).tpc = s.tpc := rfl
@[simp] theorem State.pull8_z (s : State) : (s.pull8).z = s.z := rfl
@[simp] theorem State.pull8_stop (s : State) : (s.pull8).stop = s.stop := rfl
@[simp] theorem State.pull8_cop (s : State) : (s.pull8).cop = s.cop := rfl
@[simp] theorem State.pull8_cycles (s : State) : (s.pull8).cycles = s.cycles := rfl
@[simp] theorem State.pull8_interrupted (s : State) : (s.pull8).interrupted = s.interrupted := rfl
@[simp] theorem State.pull8_trace (s : State) : (s.pull8).trace = s.trace := rfl
@[simp] theorem State.pull8_mem (s : State) : (s.pull8).mem = s.mem := rfl
@[simp] theorem State.pull8_illegal (s : State) : (s.pull8).illegal = s.illegal := rfl
@[simp] theorem State.pull8_flag (s : State) (g : Flag) : (s.pull8).flag g = s.flag g := rfl
@[simp] theorem State.pull8_read8 (s : State) (c : QWord) : (s.pull8).read8 c = s.read8 c := rfl
@[simp] theorem State.pull8_read16 (s : State) (c : QWord) (o : Endian) : (s.pull8).read16 c o = s.read16 c o := rfl
@[simp] theorem State.pull8_read32 (s : State) (c : QWord) (o : Endian) : (s.pull8).read32 c o = s.read32 c o := rfl
@[simp] theorem State.pull8_read64 (s : State) (c : QWord) (o : Endian) : (s.pull8).read64 c o = s.read64 c o := rfl

/-! ### pull16 -/

@[simp] theorem State.pull16_a (s : State) : (s.pull16).a = s.a := rfl
@[simp] theorem State.pull16_b (s : State) : (s.pull16).b = s.b := rfl
@[simp] theorem State.pull16_x (s : State) : (s.pull16).x = s.x := rfl
@[simp] theorem State.pull16_y (s : State) : (s.pull16).y = s.y := rfl
@[simp] theorem State.pull16_sp (s : State) : (s.pull16).sp = s.sp + 2 := rfl
@[simp] theorem State.pull16_d (s : State) : (s.pull16).d = s.d := rfl
@[simp] theorem State.pull16_p (s : State) : (s.pull16).p = s.p := rfl
@[simp] theorem State.pull16_pc (s : State) : (s.pull16).pc = s.pc := rfl
@[simp] theorem State.pull16_tpc (s : State) : (s.pull16).tpc = s.tpc := rfl
@[simp] theorem State.pull16_z (s : State) : (s.pull16).z = s.z := rfl
@[simp] theorem State.pull16_stop (s : State) : (s.pull16).stop = s.stop := rfl
@[simp] theorem State.pull16_cop (s : State) : (s.pull16).cop = s.cop := rfl
@[simp] theorem State.pull16_cycles (s : State) : (s.pull16).cycles = s.cycles := rfl
@[simp] theorem State.pull16_interrupted (s : State) : (s.pull16).interrupted = s.interrupted := rfl
@[simp] theorem State.pull16_trace (s : State) : (s.pull16).trace = s.trace := rfl
@[simp] theorem State.pull16_mem (s : State) : (s.pull16).mem = s.mem := rfl
@[simp] theorem State.pull16_illegal (s : State) : (s.pull16).illegal = s.illegal := rfl
@[simp] theorem State.pull16_flag (s : State) (g : Flag) : (s.pull16).flag g = s.flag g := rfl
@[simp] theorem State.pull16_read8 (s : State) (c : QWord) : (s.pull16).read8 c = s.read8 c := rfl
@[simp] theorem State.pull16_read16 (s : State) (c : QWord) (o : Endian) : (s.pull16).read16 c o = s.read16 c o := rfl
@[simp] theorem State.pull16_read32 (s : State) (c : QWord) (o : Endian) : (s.pull16).read32 c o = s.read32 c o := rfl
@[simp] theorem State.pull16_read64 (s : State) (c : QWord) (o : Endian) : (s.pull16).read64 c o = s.read64 c o := rfl

/-! ### zSet -/

@[simp] theorem State.zSet_a (s : State) (i : Nat) (v : QWord) : (s.zSet i v).a = s.a := rfl
@[simp] theorem State.zSet_b (s : State) (i : Nat) (v : QWord) : (s.zSet i v).b = s.b := rfl
@[simp] theorem State.zSet_x (s : State) (i : Nat) (v : QWord) : (s.zSet i v).x = s.x := rfl
@[simp] theorem State.zSet_y (s : State) (i : Nat) (v : QWord) : (s.zSet i v).y = s.y := rfl
@[simp] theorem State.zSet_sp (s : State) (i : Nat) (v : QWord) : (s.zSet i v).sp = s.sp := rfl
@[simp] theorem State.zSet_d (s : State) (i : Nat) (v : QWord) : (s.zSet i v).d = s.d := rfl
@[simp] theorem State.zSet_p (s : State) (i : Nat) (v : QWord) : (s.zSet i v).p = s.p := rfl
@[simp] theorem State.zSet_pc (s : State) (i : Nat) (v : QWord) : (s.zSet i v).pc = s.pc := rfl
@[simp] theorem State.zSet_tpc (s : State) (i : Nat) (v : QWord) : (s.zSet i v).tpc = s.tpc := rfl
@[simp] theorem State.zSet_z (s : State) (i : Nat) (v : QWord) : (s.zSet i v).z = s.z.set (i % 128) v := rfl
@[simp] theorem State.zSet_stop (s : State) (i : Nat) (v : QWord) : (s.zSet i v).stop = s.stop := rfl
@[simp] theorem State.zSet_cop (s : State) (i : Nat) (v : QWord) : (s.zSet i v).cop = s.cop := rfl
@[simp] theorem State.zSet_cycles (s : State) (i : Nat) (v : QWord) : (s.zSet i v).cycles = s.cycles := rfl
@[simp] theorem State.zSet_interrupted (s : State) (i : Nat) (v : QWord) : (s.zSet i v).interrupted = s.interrupted := rfl
@[simp] theorem State.zSet_trace (s : State) (i : Nat) (v : QWord) : (s.zSet i v).trace = s.trace := rfl
@[simp] theorem State.zSet_mem (s : State) (i : Nat) (v : QWord) : (s.zSet i v).mem = s.mem := rfl
@[simp] theorem State.zSet_illegal (s : State) (i : Nat) (v : QWord) : (s.zSet i v).illegal = s.illegal := rfl
@[simp] theorem State.zSet_flag (s : State) (i : Nat) (v : QWord) (g : Flag) : (s.zSet i v).flag g = s.flag g := rfl
@[simp] theorem State.zSet_read8 (s : State) (i : Nat) (v : QWord) (c : QWord) : (s.zSet i v).read8 c = s.read8 c := rfl
@[simp] theorem State.zSet_read16 (s : State) (i : Nat) (v : QWord) (c : QWord) (o : Endian) : (s.zSet i v).read16 c o = s.read16 c o := rfl
@[simp] theorem State.zSet_read32 (s : State) (i : Nat) (v : QWord) (c : QWord) (o : Endian) : (s.zSet i v).read32 c o = s.read32 c o := rfl
@[simp] theorem State.zSet_read64 (s : State) (i : Nat) (v : QWord) (c : QWord) (o : Endian) : (s.zSet i v).read64 c o = s.read64 c o := rfl

end Sys2Proof.Machine
end

