-- ==== Sys2Proof/Laws/Flags.lean ====
section
/-! SUPPORT. The flags register: a flag read after a flag written, and the decimal correction where it does nothing. -/

namespace Sys2Proof.Machine

theorem Flag.bit_lt (f : Flag) : f.bit < 8 := by cases f <;> decide

theorem Flag.bit_inj (f g : Flag) (h : f.bit = g.bit) : f = g := by
  cases f <;> cases g <;> first | rfl | exact absurd h (by decide)

/-- A flag of a byte after one flag bit was replaced. -/
theorem setFlagBit_getLsbD (p : Byte) (f g : Flag) (v : Bool) :
    (setFlagBit p f v).getLsbD g.bit = if g = f then v else p.getLsbD g.bit := by
  cases v <;> cases f <;> cases g <;> simp [setFlagBit, Flag.bit]

/-- A flag of the state after one flag was replaced. -/
theorem State.flag_setFlag (s : State) (f g : Flag) (v : Bool) : (s.setFlag f v).flag g = if g = f then v else s.flag g :=
  setFlagBit_getLsbD s.p f g v

theorem State.flag_setNZ64 (s : State) (v : QWord) (g : Flag) :
    (s.setNZ64 v).flag g = if g = .zero then v == 0 else if g = .negative then v.msb else s.flag g := by
  simp only [State.setNZ64, State.flag_setFlag]

theorem State.flag_setNZ16 (s : State) (v : Word) (g : Flag) :
    (s.setNZ16 v).flag g = if g = .zero then v == 0 else if g = .negative then v.msb else s.flag g := by
  simp only [State.setNZ16, State.flag_setFlag]

theorem State.flag_setP (s : State) (v : Byte) (g : Flag) : (s.setP v).flag g = v.getLsbD g.bit := rfl

/-- The eight flags determine P. -/
theorem State.p_eq_of_flags (s t : State) (h : ∀ f, t.flag f = s.flag f) : t.p = s.p := by
  have hc := h .carry
  have hz := h .zero
  have hi := h .interruptDisable
  have hd := h .decimal
  have ht := h .trap
  have hp := h .parity
  have hv := h .overflow
  have hn := h .negative
  simp only [State.flag, Flag.bit] at hc hz hi hd ht hp hv hn
  apply BitVec.eq_of_getLsbD_eq
  intro k hk
  match k, hk with
  | 0, _ => exact hc
  | 1, _ => exact hz
  | 2, _ => exact hi
  | 3, _ => exact hd
  | 4, _ => exact ht
  | 5, _ => exact hp
  | 6, _ => exact hv
  | 7, _ => exact hn

/-- The correction changes nothing when no nibble exceeds 9 (41_adc.md R100). -/
theorem decimalCorrect_of_digits (r : QWord) (h : ∀ i < 16, r.toNat / 16 ^ i % 16 ≤ 9) : decimalCorrect r = r := by
  have key : ∀ l : List Nat, (∀ i ∈ l, i < 16) → l.foldl decimalNibble r = r := by
    intro l
    induction l with
    | nil => intro _; rfl
    | cons i l ih =>
      intro hl
      have hi := h i (hl i (by simp))
      have hstep : decimalNibble r i = r := by
        unfold decimalNibble
        rw [if_neg (by omega)]
      rw [List.foldl_cons, hstep]
      exact ih fun j hj => hl j (by simp [hj])
  exact key _ fun i hi => List.mem_range.mp hi

/-! ### The word functions of the shifts as numbers (48_shifts.md) -/

theorem aslWord_toNat (w : Word) : (aslWord w).toNat = w.toNat * 2 % 65536 := by
  simp [aslWord, Nat.shiftLeft_eq]

theorem lsrWord_toNat (w : Word) : (lsrWord w).toNat = w.toNat / 2 := by
  simp [lsrWord, Nat.shiftRight_eq_div_pow]

theorem rolWord_toNat (w : Word) (c : Bool) : (rolWord w c).toNat = w.toNat * 2 % 65536 + c.toNat := by
  have h : (rolWord w c).toNat = 2 ^ 1 * (w.toNat % 32768) ||| c.toNat := by
    have hm : w.toNat * 2 % 65536 = 2 * (w.toNat % 32768) := by omega
    cases c <;> simp [rolWord, Nat.shiftLeft_eq, hm]
  have hc : c.toNat < 2 ^ 1 := by cases c <;> decide
  rw [h, ← Nat.two_pow_add_eq_or_of_lt hc]
  omega

theorem rorWord_toNat (w : Word) (c : Bool) : (rorWord w c).toNat = w.toNat / 2 + c.toNat * 32768 := by
  have hw : w.toNat / 2 < 2 ^ 15 := by
    have := w.isLt
    omega
  have h : (rorWord w c).toNat = 2 ^ 15 * c.toNat ||| w.toNat / 2 := by
    cases c <;> simp [rorWord, Nat.shiftRight_eq_div_pow, Nat.or_comm]
  rw [h, ← Nat.two_pow_add_eq_or_of_lt hw]
  omega

end Sys2Proof.Machine
end

