-- ==== Sys2Proof/Laws/Memory.lean ====
section
/-! SUPPORT. Memory: a read after a write, and that every write keeps the canonical form. -/

namespace Sys2Proof.Machine

/-! ### One byte -/

theorem Memory.find_filter_ne (m : Memory) (a k : Nat) (h : k ≠ a) :
    (m.filter (fun c => c.1 != a)).find? (fun c => c.1 == k) = m.find? (fun c => c.1 == k) := by
  induction m with
  | nil => rfl
  | cons c r ih =>
    by_cases hca : c.1 = a
    · have hck : ¬ c.1 = k := by omega
      simp [hca, ih, Ne.symm h]
    · by_cases hck : c.1 = k
      · simp [hck, h]
      · simp [hca, hck, ih]

theorem Memory.find_filter_self (m : Memory) (a : Nat) :
    (m.filter (fun c => c.1 != a)).find? (fun c => c.1 == a) = none := by
  simp [List.find?_eq_none]

theorem Memory.find_insertCell (c : Host.Cell) (m : Memory) (k : Nat) (h : m.find? (fun e => e.1 == c.1) = none) :
    (Memory.insertCell c m).find? (fun e => e.1 == k) = if c.1 = k then some c else m.find? (fun e => e.1 == k) := by
  induction m with
  | nil => by_cases hk : c.1 = k <;> simp [Memory.insertCell, hk]
  | cons e r ih =>
    have hne : e.1 ≠ c.1 := by
      intro he
      simp [he] at h
    have hr : r.find? (fun x => x.1 == c.1) = none := by simpa [hne] using h
    unfold Memory.insertCell
    split
    · by_cases hk : c.1 = k <;> simp [hk]
    · by_cases hek : e.1 = k
      · have hck : c.1 ≠ k := by omega
        simp [hek, hck]
      · simp [hek, ih hr]

/-- Read after write, at the same address and at any other (20_memory.md R52). -/
theorem Memory.get_set (m : Memory) (a k : Nat) (v : Byte) : (m.set a v).get k = if k = a then v else m.get k := by
  unfold Memory.set Memory.get
  by_cases hv : v = unlistedByte
  · simp only [hv, if_true]
    by_cases hk : k = a
    · subst hk
      rw [Memory.find_filter_self]
      simp
    · rw [Memory.find_filter_ne m a k hk]
      simp [hk]
  · have hfree := Memory.find_filter_self m a
    by_cases hk : k = a
    · subst hk
      simp [hv, Memory.find_insertCell (k, v) _ k hfree]
    · simp [hv, hk, Memory.find_insertCell (a, v) _ k hfree, Ne.symm hk, Memory.find_filter_ne m a k hk]

/-! ### The canonical form -/

theorem Memory.rising_mono (m : Memory) (lo hi : Nat) (h : lo ≤ hi) (hm : Memory.rising hi m = true) : Memory.rising lo m = true := by
  cases m with
  | nil => rfl
  | cons c r =>
    simp only [Memory.rising, Bool.and_eq_true, decide_eq_true_eq] at hm ⊢
    exact ⟨by omega, hm.2⟩

theorem Memory.rising_filter (m : Memory) (lo a : Nat) (hm : Memory.rising lo m = true) :
    Memory.rising lo (m.filter (fun c => c.1 != a)) = true := by
  induction m generalizing lo with
  | nil => rfl
  | cons c r ih =>
    simp only [Memory.rising, Bool.and_eq_true, decide_eq_true_eq] at hm
    by_cases hca : c.1 = a
    · simpa [hca] using Memory.rising_mono _ _ _ (by omega) (ih (c.1 + 1) hm.2)
    · simp [hca, Memory.rising, hm.1, ih _ hm.2]

theorem Memory.rising_insertCell (c : Host.Cell) (m : Memory) (lo : Nat) (hlo : lo ≤ c.1) (hm : Memory.rising lo m = true)
    (h : m.find? (fun e => e.1 == c.1) = none) : Memory.rising lo (Memory.insertCell c m) = true := by
  induction m generalizing lo with
  | nil => simp [Memory.insertCell, Memory.rising, hlo]
  | cons e r ih =>
    simp only [Memory.rising, Bool.and_eq_true, decide_eq_true_eq] at hm
    have hne : e.1 ≠ c.1 := by
      intro he
      simp [he] at h
    have hr : r.find? (fun x => x.1 == c.1) = none := by simpa [hne] using h
    unfold Memory.insertCell
    split
    · simp only [Memory.rising, Bool.and_eq_true, decide_eq_true_eq]
      exact ⟨hlo, by omega, hm.2⟩
    · simp only [Memory.rising, Bool.and_eq_true, decide_eq_true_eq]
      exact ⟨hm.1, ih _ (by omega) hm.2 hr⟩

theorem Memory.all_insertCell (q : Host.Cell → Bool) (c : Host.Cell) (m : Memory) (hc : q c = true) (hm : m.all q = true) :
    (Memory.insertCell c m).all q = true := by
  induction m with
  | nil => simp [Memory.insertCell, hc]
  | cons e r ih =>
    simp only [List.all_cons, Bool.and_eq_true] at hm
    unfold Memory.insertCell
    split <;> simp [hc, hm.1, hm.2, ih hm.2]

theorem Memory.all_filter (q f : Host.Cell → Bool) (m : Memory) (hm : m.all q = true) : (m.filter f).all q = true := by
  simp only [List.all_eq_true, List.mem_filter] at hm ⊢
  exact fun c hc => hm c hc.1

/-- Writing a byte at an address of the space keeps the canonical form. -/
theorem Memory.wf_set (m : Memory) (a : Nat) (v : Byte) (ha : a < 2 ^ 64) (hm : m.wf = true) : (m.set a v).wf = true := by
  simp only [Memory.wf, Bool.and_eq_true] at hm ⊢
  unfold Memory.set
  by_cases hv : v = unlistedByte
  · simp only [hv, if_true]
    exact ⟨Memory.rising_filter m 0 a hm.1, Memory.all_filter _ _ m hm.2⟩
  · simp only [hv, if_false]
    refine ⟨Memory.rising_insertCell _ _ 0 (Nat.zero_le _) (Memory.rising_filter m 0 a hm.1) (Memory.find_filter_self m a),
      Memory.all_insertCell _ _ _ ?_ (Memory.all_filter _ _ m hm.2)⟩
    simp only [Bool.and_eq_true, decide_eq_true_eq]
    exact ⟨ha, by simp [hv]⟩

theorem Memory.wf_writeBytes (m : Memory) (a : QWord) (vs : List Byte) (hm : m.wf = true) : (m.writeBytes a vs).wf = true := by
  induction vs generalizing m a with
  | nil => exact hm
  | cons v vs ih => exact ih _ _ (Memory.wf_set m _ v a.isLt hm)

/-- A write of any width keeps the canonical form. -/
theorem Memory.wf_write (m : Memory) (a : QWord) (n v : Nat) (o : Endian) (hm : m.wf = true) : (m.write a n v o).wf = true :=
  Memory.wf_writeBytes m a _ hm

/-! ### Runs of bytes -/

@[simp] theorem Memory.readBytes_length (m : Memory) (n : Nat) (a : QWord) : (m.readBytes n a).length = n := by
  induction n generalizing a with
  | zero => rfl
  | succ n ih => simp [Memory.readBytes, ih]

theorem Memory.readBytes_add (m : Memory) (n k : Nat) (a : QWord) :
    m.readBytes (n + k) a = m.readBytes n a ++ m.readBytes k (a + BitVec.ofNat 64 n) := by
  induction n generalizing a with
  | zero => simp [Memory.readBytes]
  | succ n ih =>
    have h : a + 1 + BitVec.ofNat 64 n = a + BitVec.ofNat 64 (n + 1) := by
      apply BitVec.eq_of_toNat_eq
      simp
      omega
    rw [show n + 1 + k = (n + k) + 1 by omega]
    simp only [Memory.readBytes, ih, h, List.cons_append]

/-- A byte outside the run of addresses written is as before. -/
theorem Memory.get_writeBytes_outside (m : Memory) (a : QWord) (vs : List Byte) (k : QWord)
    (h : ∀ i < vs.length, k ≠ a + BitVec.ofNat 64 i) : (m.writeBytes a vs).get k.toNat = m.get k.toNat := by
  induction vs generalizing m a with
  | nil => rfl
  | cons v vs ih =>
    have h0 : k ≠ a := by simpa using h 0 (by simp)
    have hn : k.toNat ≠ a.toNat := fun he => h0 (BitVec.eq_of_toNat_eq he)
    have hs : ∀ i < vs.length, k ≠ a + 1 + BitVec.ofNat 64 i := by
      intro i hi
      have h1 := h (i + 1) (by simpa using hi)
      intro he
      apply h1
      rw [he]
      apply BitVec.eq_of_toNat_eq
      simp
      omega
    rw [Memory.writeBytes, ih _ _ hs, Memory.get_set]
    simp [hn]

/-- The bytes written are the bytes read back, for a run no longer than the address space. -/
theorem Memory.readBytes_writeBytes (m : Memory) (a : QWord) (vs : List Byte) (hlen : vs.length ≤ 2 ^ 64) :
    (m.writeBytes a vs).readBytes vs.length a = vs := by
  induction vs generalizing m a with
  | nil => rfl
  | cons v vs ih =>
    simp only [List.length_cons] at hlen
    have hout : ∀ i < vs.length, a ≠ a + 1 + BitVec.ofNat 64 i := by
      intro i hi he
      have h2 := congrArg BitVec.toNat he
      have ha := a.isLt
      simp at h2
      omega
    have hhead := Memory.get_writeBytes_outside (m.set a.toNat v) (a + 1) vs a hout
    simp only [List.length_cons, Memory.readBytes, Memory.writeBytes]
    rw [hhead, Memory.get_set, ih _ _ (by omega)]
    simp

/-- `MemRead` after `MemWrite` at the same address, width and byte order gives the value (20_memory.md R45, R52). -/
theorem Memory.read_write (m : Memory) (a : QWord) (n v : Nat) (o : Endian) (hn : n ≤ 2 ^ 64) :
    (m.write a n v o).read a n o = v % 256 ^ n := by
  have h := Memory.readBytes_writeBytes m a (toBytes o n v) (by simpa using hn)
  rw [toBytes_length] at h
  rw [Memory.read, Memory.write, h, ofBytes_toBytes]

/-- A read depends only on the bytes of its own addresses. -/
theorem Memory.readBytes_congr (m m' : Memory) (n : Nat) (a : QWord)
    (h : ∀ i < n, m'.get (a + BitVec.ofNat 64 i).toNat = m.get (a + BitVec.ofNat 64 i).toNat) :
    m'.readBytes n a = m.readBytes n a := by
  induction n generalizing a with
  | zero => rfl
  | succ n ih =>
    have h0 : m'.get a.toNat = m.get a.toNat := by simpa using h 0 (by omega)
    have hs : ∀ i < n, m'.get (a + 1 + BitVec.ofNat 64 i).toNat = m.get (a + 1 + BitVec.ofNat 64 i).toNat := by
      intro i hi
      have h1 := h (i + 1) (by omega)
      have he : a + 1 + BitVec.ofNat 64 i = a + BitVec.ofNat 64 (i + 1) := by
        apply BitVec.eq_of_toNat_eq
        simp
        omega
      rwa [he]
    simp only [Memory.readBytes, h0, ih (a + 1) hs]

end Sys2Proof.Machine
end

