-- ==== Sys2Proof/Laws/Ops.lean ====
section
/-! SUPPORT. What the shared operations do: accesses, the stack, entering a trap. -/

namespace Sys2Proof.Machine

/-! ### Accesses -/

/-- A byte access is the byte of memory at the address. -/
theorem State.read8_eq_get (s : State) (a : QWord) : s.read8 a = s.mem.get a.toNat := by
  apply BitVec.eq_of_toNat_eq
  have h := (s.mem.get a.toNat).isLt
  simp only [State.read8, Memory.read, Memory.readBytes, ofBytes, endian, leNat, BitVec.toNat_ofNat]
  omega

/-- A word access in the default order is its two bytes, the low one first (20_memory.md R45). -/
theorem State.read16_toNat (s : State) (a : QWord) :
    (s.read16 a).toNat = (s.read8 a).toNat + 256 * (s.read8 (a + 1)).toNat := by
  have h0 := (s.mem.get a.toNat).isLt
  have h1 := (s.mem.get (a + 1).toNat).isLt
  simp only [State.read8_eq_get, State.read16, Memory.read, Memory.readBytes, ofBytes, endian, leNat, BitVec.toNat_ofNat]
  omega

/-- The byte at any address after a write of `n` bytes elsewhere is as before. -/
theorem State.read8_setMem_write_outside (s : State) (a : QWord) (n v : Nat) (k : QWord) (o : Endian)
    (h : ∀ i < n, k ≠ a + BitVec.ofNat 64 i) : (s.setMem (s.mem.write a n v o)).read8 k = s.read8 k := by
  rw [State.read8_eq_get, State.read8_eq_get]
  exact Memory.get_writeBytes_outside s.mem a _ k (by simpa using h)

theorem State.read8_write8_outside (s : State) (a k : QWord) (v : Byte) (h : k ≠ a) : (s.write8 a v).read8 k = s.read8 k :=
  s.read8_setMem_write_outside a 1 v.toNat k endian fun i hi => by
    obtain rfl : i = 0 := by omega
    simpa using h

theorem State.read8_write16_outside (s : State) (a k : QWord) (v : Word) (o : Endian) (h : ∀ i < 2, k ≠ a + BitVec.ofNat 64 i) :
    (s.write16 a v o).read8 k = s.read8 k :=
  s.read8_setMem_write_outside a 2 v.toNat k o h

theorem State.read8_write64_outside (s : State) (a k : QWord) (v : QWord) (o : Endian) (h : ∀ i < 8, k ≠ a + BitVec.ofNat 64 i) :
    (s.write64 a v o).read8 k = s.read8 k :=
  s.read8_setMem_write_outside a 8 v.toNat k o h

theorem State.read8_write8 (s : State) (a : QWord) (v : Byte) : (s.write8 a v).read8 a = v := by
  apply BitVec.eq_of_toNat_eq
  have h := v.isLt
  simp only [State.read8, State.write8_mem, Memory.read_write s.mem a 1 v.toNat endian (by decide), BitVec.toNat_ofNat]
  omega

theorem State.read16_write16 (s : State) (a : QWord) (v : Word) (o : Endian) : (s.write16 a v o).read16 a o = v := by
  apply BitVec.eq_of_toNat_eq
  have h := v.isLt
  simp only [State.read16, State.write16_mem, Memory.read_write s.mem a 2 v.toNat o (by decide), BitVec.toNat_ofNat]
  omega

theorem State.read64_write64 (s : State) (a : QWord) (v : QWord) (o : Endian) : (s.write64 a v o).read64 a o = v := by
  apply BitVec.eq_of_toNat_eq
  have h := v.isLt
  simp only [State.read64, State.write64_mem, Memory.read_write s.mem a 8 v.toNat o (by decide), BitVec.toNat_ofNat]
  omega

/-! ### The zero-cache -/

/-- Entry `i mod 128` (10_state.md R20). -/
theorem State.zGet_zSet (s : State) (i k : Nat) (v : QWord) (hz : s.z.length = 128) :
    (s.zSet i v).zGet k = if k % 128 = i % 128 then v else s.zGet k := by
  have hk : k % 128 < 128 := Nat.mod_lt _ (by decide)
  by_cases h : k % 128 = i % 128
  · simp [State.zGet, List.getD, h, hz, Nat.mod_lt]
  · simp [State.zGet, List.getD, h, List.getElem?_set_ne (Ne.symm h)]

/-! ### Traps -/

/-- Everything entering the vectored trap does (43_traps_halts.md R130, 60_exceptions.md R224). -/
theorem State.enterTrap_eq (s : State) (o : Endian) :
    s.enterTrap o =
      { s with
        mem := (s.mem.write s.sp 2 (lowWord s.pc).toNat o).write (s.sp - 2) 1 s.p.toNat
        sp := s.sp - 3
        p := setFlagBit (setFlagBit s.p .interruptDisable true) .decimal false
        pc := (BitVec.ofNat 16
          (((s.mem.write s.sp 2 (lowWord s.pc).toNat o).write (s.sp - 2) 1 s.p.toNat).read brkVector 2 o)).setWidth 64 } := by
  have h : s.sp - 2 - 1 = s.sp - 3 := by
    rw [BitVec.sub_sub]
    rfl
  simp only [State.enterTrap, State.push8, State.push16, State.setFlag, State.setPC, State.setSP, State.write8, State.write16,
    State.setMem, State.read16, h]

/-- Everything entering the coprocessor trap does (43_traps_halts.md R131, 60_exceptions.md R225). -/
theorem State.enterCop_eq (s : State) (ea : QWord) (c : CopCapture) :
    s.enterCop ea c =
      { s with pc := ea + 2 + BitVec.ofNat 64 (2 * c.size.toNat), cop := some c, stop := .coprocessor } := rfl

end Sys2Proof.Machine
end

