-- ==== Sys2Proof/Laws/PerInstr.lean ====
section
/-! SUPPORT. Per instruction: how its encoding is laid out (30_encoding.md R60, R61, R64). -/

namespace Sys2Proof.Laws.Layout

/-- The opcode byte of the instruction has a row in the map, and the length told from the first two bytes of its encoding is the
length of its encoding. -/
def Statement (i : Instr) : Prop :=
  i.wf = true → (opcodeMap.lookup i.opcode).isSome = true ∧ (encode i).length = lengthFrom i.opcode ((encode i).getD 1 0)

/-- The shape of every proof but COP's: the length of the operand bytes is a number the mode fixes. -/
theorem of_length (i : Instr) (n : Nat) (hmap : (opcodeMap.lookup i.opcode).isSome = true) (hops : i.operands.length = n)
    (hlen : ∀ b1, lengthFrom i.opcode b1 = n + 1) : Statement i := by
  intro _
  exact ⟨hmap, by rw [encode, List.length_cons, hops, hlen]⟩

theorem adcImm8 (i : Byte) : Statement (.adcImm8 i) := of_length _ 1 rfl (by simp [Instr.operands]) fun _ => rfl

theorem adcImm16 (i : Word) : Statement (.adcImm16 i) := of_length _ 2 rfl (by simp [Instr.operands]) fun _ => rfl

theorem adcImm32 (i : DWord) : Statement (.adcImm32 i) := of_length _ 4 rfl (by simp [Instr.operands]) fun _ => rfl

theorem adcImm64 (i : QWord) (x : QWord) : Statement (.adcImm64 i x) := of_length _ 16 rfl (by simp [Instr.operands]) fun _ => rfl

theorem adcAbs (f : Field) : Statement (.adcAbs f) := of_length _ 16 rfl (by simp [Instr.operands]) fun _ => rfl

theorem adcAbsX (f : Field) : Statement (.adcAbsX f) := of_length _ 16 rfl (by simp [Instr.operands]) fun _ => rfl

theorem adcAbsY (f : Field) : Statement (.adcAbsY f) := of_length _ 16 rfl (by simp [Instr.operands]) fun _ => rfl

theorem adcSR (d : Byte) : Statement (.adcSR d) := of_length _ 1 rfl (by simp [Instr.operands]) fun _ => rfl

theorem adcSRIY (d : Byte) : Statement (.adcSRIY d) := of_length _ 1 rfl (by simp [Instr.operands]) fun _ => rfl

theorem bcc (d : Word) : Statement (.bcc d) := of_length _ 2 rfl (by simp [Instr.operands]) fun _ => rfl

theorem bcs (d : Word) : Statement (.bcs d) := of_length _ 2 rfl (by simp [Instr.operands]) fun _ => rfl

theorem beq (d : Word) : Statement (.beq d) := of_length _ 2 rfl (by simp [Instr.operands]) fun _ => rfl

theorem bne (d : Word) : Statement (.bne d) := of_length _ 2 rfl (by simp [Instr.operands]) fun _ => rfl

theorem bmi (d : Word) : Statement (.bmi d) := of_length _ 2 rfl (by simp [Instr.operands]) fun _ => rfl

theorem bpl (d : Word) : Statement (.bpl d) := of_length _ 2 rfl (by simp [Instr.operands]) fun _ => rfl

theorem bvc (d : Word) : Statement (.bvc d) := of_length _ 2 rfl (by simp [Instr.operands]) fun _ => rfl

theorem bvs (d : Word) : Statement (.bvs d) := of_length _ 2 rfl (by simp [Instr.operands]) fun _ => rfl

theorem bra (d : Word) : Statement (.bra d) := of_length _ 2 rfl (by simp [Instr.operands]) fun _ => rfl

theorem brl (d : Word) : Statement (.brl d) := of_length _ 2 rfl (by simp [Instr.operands]) fun _ => rfl

theorem jmpAbs (f : Field) : Statement (.jmpAbs f) := of_length _ 16 rfl (by simp [Instr.operands]) fun _ => rfl

theorem jmpInd (p : QWord) (x : QWord) : Statement (.jmpInd p x) := of_length _ 16 rfl (by simp [Instr.operands]) fun _ => rfl

theorem jmpXInd (f : Field) : Statement (.jmpXInd f) := of_length _ 16 rfl (by simp [Instr.operands]) fun _ => rfl

theorem jsrAbs (f : Field) : Statement (.jsrAbs f) := of_length _ 16 rfl (by simp [Instr.operands]) fun _ => rfl

theorem jsrXInd (f : Field) : Statement (.jsrXInd f) := of_length _ 16 rfl (by simp [Instr.operands]) fun _ => rfl

theorem rts : Statement .rts := of_length _ 0 rfl rfl fun _ => rfl

theorem brk : Statement .brk := of_length _ 0 rfl rfl fun _ => rfl

theorem cop (size : Byte) (op : Byte) (words : List Word) : Statement (.cop size op words) := by
  intro h
  have hw : words.length = size.toNat := by simpa [Instr.wf] using h
  refine ⟨rfl, ?_⟩
  have hl : (encode (.cop size op words)).length = 3 + 2 * words.length := by
    simp [encode, Instr.operands]
    omega
  rw [hl, hw]
  rfl

theorem stp : Statement .stp := of_length _ 0 rfl rfl fun _ => rfl

theorem wai : Statement .wai := of_length _ 0 rfl rfl fun _ => rfl

theorem mvn : Statement .mvn := of_length _ 0 rfl rfl fun _ => rfl

theorem mvp : Statement .mvp := of_length _ 0 rfl rfl fun _ => rfl

theorem tax : Statement .tax := of_length _ 0 rfl rfl fun _ => rfl

theorem tay : Statement .tay := of_length _ 0 rfl rfl fun _ => rfl

theorem txa : Statement .txa := of_length _ 0 rfl rfl fun _ => rfl

theorem txy : Statement .txy := of_length _ 0 rfl rfl fun _ => rfl

theorem tya : Statement .tya := of_length _ 0 rfl rfl fun _ => rfl

theorem tyx : Statement .tyx := of_length _ 0 rfl rfl fun _ => rfl

theorem tsa : Statement .tsa := of_length _ 0 rfl rfl fun _ => rfl

theorem tsx : Statement .tsx := of_length _ 0 rfl rfl fun _ => rfl

theorem tas : Statement .tas := of_length _ 0 rfl rfl fun _ => rfl

theorem txs : Statement .txs := of_length _ 0 rfl rfl fun _ => rfl

theorem tba : Statement .tba := of_length _ 0 rfl rfl fun _ => rfl

theorem tcd : Statement .tcd := of_length _ 0 rfl rfl fun _ => rfl

theorem tdc : Statement .tdc := of_length _ 0 rfl rfl fun _ => rfl

theorem pha : Statement .pha := of_length _ 0 rfl rfl fun _ => rfl

theorem phx : Statement .phx := of_length _ 0 rfl rfl fun _ => rfl

theorem phy : Statement .phy := of_length _ 0 rfl rfl fun _ => rfl

theorem pla : Statement .pla := of_length _ 0 rfl rfl fun _ => rfl

theorem plx : Statement .plx := of_length _ 0 rfl rfl fun _ => rfl

theorem ply : Statement .ply := of_length _ 0 rfl rfl fun _ => rfl

theorem peaAbs (f : Field) : Statement (.peaAbs f) := of_length _ 16 rfl (by simp [Instr.operands]) fun _ => rfl

theorem peiInd (p : QWord) (x : QWord) : Statement (.peiInd p x) := of_length _ 16 rfl (by simp [Instr.operands]) fun _ => rfl

theorem perRel (d : Word) : Statement (.perRel d) := of_length _ 2 rfl (by simp [Instr.operands]) fun _ => rfl

theorem php : Statement .php := of_length _ 0 rfl rfl fun _ => rfl

theorem plp : Statement .plp := of_length _ 0 rfl rfl fun _ => rfl

theorem repImm8 (i : Byte) : Statement (.repImm8 i) := of_length _ 1 rfl (by simp [Instr.operands]) fun _ => rfl

theorem sepImm8 (i : Byte) : Statement (.sepImm8 i) := of_length _ 1 rfl (by simp [Instr.operands]) fun _ => rfl

theorem trbAbs (f : Field) : Statement (.trbAbs f) := of_length _ 16 rfl (by simp [Instr.operands]) fun _ => rfl

theorem tsbAbs (f : Field) : Statement (.tsbAbs f) := of_length _ 16 rfl (by simp [Instr.operands]) fun _ => rfl

theorem aslAbs (f : Field) : Statement (.aslAbs f) := of_length _ 16 rfl (by simp [Instr.operands]) fun _ => rfl

theorem aslAbsX (f : Field) : Statement (.aslAbsX f) := of_length _ 16 rfl (by simp [Instr.operands]) fun _ => rfl

theorem lsrAbs (f : Field) : Statement (.lsrAbs f) := of_length _ 16 rfl (by simp [Instr.operands]) fun _ => rfl

theorem lsrAbsX (f : Field) : Statement (.lsrAbsX f) := of_length _ 16 rfl (by simp [Instr.operands]) fun _ => rfl

theorem rolAbs (f : Field) : Statement (.rolAbs f) := of_length _ 16 rfl (by simp [Instr.operands]) fun _ => rfl

theorem rolAbsX (f : Field) : Statement (.rolAbsX f) := of_length _ 16 rfl (by simp [Instr.operands]) fun _ => rfl

theorem rorAbs (f : Field) : Statement (.rorAbs f) := of_length _ 16 rfl (by simp [Instr.operands]) fun _ => rfl

theorem rorAbsX (f : Field) : Statement (.rorAbsX f) := of_length _ 16 rfl (by simp [Instr.operands]) fun _ => rfl

theorem aslA : Statement .aslA := of_length _ 0 rfl rfl fun _ => rfl

theorem lsrA : Statement .lsrA := of_length _ 0 rfl rfl fun _ => rfl

theorem rolA : Statement .rolA := of_length _ 0 rfl rfl fun _ => rfl

theorem rorA : Statement .rorA := of_length _ 0 rfl rfl fun _ => rfl

end Sys2Proof.Laws.Layout
end

