-- ==== Sys2Proof/Laws/Step.lean ====
section
/-! SUPPORT. What a step can be: exec always answers a next state, a fetch is never short, and the cases of a step. -/

namespace Sys2Proof.Machine

/-- No meaning faults or refuses: every instruction answers a next state, in every state. -/
theorem exec_answers_next (i : Instr) (s : State) : ∃ t, exec i s = .next t := by
  cases i <;> exact ⟨_, rfl⟩

/-- Operand bytes that are all there are taken. -/
theorem operand_ne_truncated (n : Nat) (k : List Byte → Instr) (r : List Byte) (h : n ≤ r.length) :
    operand n k r ≠ .error .truncated := by
  simp [operand, h]

/-- A COP payload that is all there is taken. -/
theorem copFmt_ne_truncated (b1 : Byte) (r : List Byte) (hlen : r.length + 1 = 3 + 2 * b1.toNat)
    (hb1 : ∀ x xs, r = x :: xs → x = b1) : copFmt r ≠ .error .truncated := by
  rcases r with _ | ⟨x, _ | ⟨op, r'⟩⟩
  · simp only [List.length_nil] at hlen
    omega
  · simp only [List.length_cons, List.length_nil] at hlen
    omega
  · obtain rfl : x = b1 := hb1 x _ rfl
    simp only [List.length_cons] at hlen
    unfold copFmt
    exact operand_ne_truncated _ _ _ (by omega)

/-- Decoding never finds too few bytes when it is given as many as the opcode byte (and COP's size byte) ask for. -/
theorem decodeOp_ne_truncated (b b1 : Byte) (r : List Byte) (hlen : r.length + 1 = lengthFrom b b1)
    (hb1 : ∀ x xs, r = x :: xs → x = b1) : decodeOp b r ≠ .error .truncated := by
  unfold decodeOp
  simp only [absFmt, relFmt, imm8Fmt, imm16Fmt, imm32Fmt, imm64Fmt]
  split <;>
    first
    | (intro h; cases h)
    | (have hl : r.length + 1 = 2 := hlen; exact operand_ne_truncated _ _ _ (by omega))
    | (have hl : r.length + 1 = 3 := hlen; exact operand_ne_truncated _ _ _ (by omega))
    | (have hl : r.length + 1 = 5 := hlen; exact operand_ne_truncated _ _ _ (by omega))
    | (have hl : r.length + 1 = 17 := hlen; exact operand_ne_truncated _ _ _ (by omega))
    | exact copFmt_ne_truncated b1 r hlen hb1

/-- A fetch takes as many bytes as the instruction has, so `step` never answers `truncatedFetch`. -/
theorem fetchInstr_not_truncated (m : Memory) (pc : QWord) : fetchInstr m pc ≠ .error .truncated := by
  obtain ⟨n, hn⟩ : ∃ n, fetchLength m pc = n + 1 := by
    unfold fetchLength lengthFrom
    split
    · split
      · exact ⟨_, Nat.add_right_comm 2 1 _⟩
      · exact ⟨_, Nat.add_comm _ _⟩
    · exact ⟨0, rfl⟩
  have hbytes : fetchBytes m pc = m.get pc.toNat :: m.readBytes n (pc + 1) := by
    rw [fetchBytes, hn]
    rfl
  rw [fetchInstr, hbytes]
  apply decodeOp_ne_truncated (b1 := m.get (pc + 1).toNat)
  · rw [Memory.readBytes_length]
    exact hn.symm
  · intro x xs hx
    cases n with
    | zero => simp [Memory.readBytes] at hx
    | succ n => exact (List.cons.inj hx).1.symm

/-- The cases of a step that answers a next state: a stopped core stands still, a running one executes the instruction at `pc`. -/
theorem step_cases (s t : State) (h : step s = .next t) :
    (s.stop ≠ .running ∧ t = s) ∨
      (s.stop = .running ∧ ∃ i r, fetchInstr s.mem s.pc = .ok (i, r) ∧ exec i s = .next t) := by
  unfold step at h
  split at h
  · next hs =>
    cases h
    exact .inl ⟨hs, rfl⟩
  · next hs =>
    rw [not_not] at hs
    split at h
    · next i r hi => exact .inr ⟨hs, i, r, hi, h⟩
    · cases h
    · cases h

/-- The cases of a step that stops: an unassigned opcode, and nothing else. -/
theorem step_fault_cases (s : State) (f : Fault) (h : step s = .fault f) :
    s.stop = .running ∧ ∃ b, fetchInstr s.mem s.pc = .error (.unassigned b) ∧ f = .illegalOpcode b s.pc := by
  unfold step at h
  split at h
  · cases h
  · next hs =>
    rw [not_not] at hs
    split at h
    · next i r hi =>
      obtain ⟨t, ht⟩ := exec_answers_next i s
      rw [ht] at h
      cases h
    · next b hb =>
      cases h
      exact ⟨hs, b, hb, rfl⟩
    · cases h

end Sys2Proof.Machine
end

