-- ==== Sys2Proof/Tests/Slice0.lean ====
section
/-! SUPPORT. The model's own tests: ill-formed terms refused, words written out from the spec decoded, the spec's test vectors run for one
step each, and for every statement with hypotheses a state and operands that meet them. -/

namespace Sys2Proof.Tests

open Sys2Proof.Machine Sys2Proof.Safety

/-- A state at `pc` with bytes from there on and zero in everything else (95_test_vectors.md, conventions). -/
def at_ (pc : QWord) (bytes : List Byte) : State := { State.reset with pc := pc, mem := Memory.writeBytes [] pc bytes }

/-- More bytes in memory. -/
def put (a : QWord) (bytes : List Byte) (s : State) : State := { s with mem := s.mem.writeBytes a bytes }

/-- What `f` sees in the next state of a step. -/
def got {α : Type} (f : State → α) (s : State) : Option α :=
  match step s with
  | .next t => some (f t)
  | .fault _ => none
  | .refused _ => none

/-- Sixteen zero operand bytes. -/
def zeros : List Byte := List.replicate 16 0

/-! ### Well-formedness (30_encoding.md R64, R66, R63) -/

theorem test_wf_cop_short : (Instr.cop 2 5 [0x1234]).wf = false := by decide
theorem test_wf_cop_whole : (Instr.cop 2 5 [0x1234, 0x5678]).wf = true := by decide
theorem test_wf_entry_unused_ea : Entry.wf ⟨.impl, .adc, some .qword⟩ = false ∧ Entry.wf ⟨.acc, .jmp, none⟩ = false := by decide
theorem test_wf_entry_adc_without_tag : Entry.wf ⟨.abs, .adc, none⟩ = false := by decide
theorem test_wf_entry_tag_on_other_handler : Entry.wf ⟨.abs, .asl, some .word⟩ = false := by decide
theorem test_wf_map_two_rows_for_a_byte : OpcodeMap.wf [(0xAA, ⟨.impl, .tax, none⟩), (0xAA, ⟨.impl, .tay, none⟩)] = false := by decide
theorem test_wf_map_with_ill_formed_row : OpcodeMap.wf [(0xAA, ⟨.impl, .jmp, none⟩)] = false := by decide
theorem test_wf_default_map : OpcodeMap.wf opcodeMap = true := by decide

/-! ### Decoding: words written out from 30_encoding.md R61, R62, R67; `0xEE` follows each -/

/-- 41_adc.md. -/
theorem test_decode_adc :
      decode [0x61, 0xFF, 0xEE] = .ok (.adcImm8 0xFF, [0xEE]) ∧
      decode [0x65, 0x34, 0x12, 0xEE] = .ok (.adcImm16 0x1234, [0xEE]) ∧
      decode [0x67, 0x78, 0x56, 0x34, 0x12, 0xEE] = .ok (.adcImm32 0x12345678, [0xEE]) ∧
      decode [0x69, 0x89, 0x67, 0x45, 0x23, 0x01, 0x00, 0x00, 0x00, 0xA0, 0xA1, 0xA2, 0xA3, 0xA4, 0xA5, 0xA6, 0xA7, 0xEE] = .ok (.adcImm64 0x123456789 0xA7A6A5A4A3A2A1A0, [0xEE]) ∧
      decode [0x6D, 0x00, 0x01, 0x02, 0x03, 0x04, 0x05, 0x06, 0x07, 0x08, 0x09, 0x0A, 0x0B, 0x0C, 0x0D, 0x0E, 0x0F, 0xEE] = .ok (.adcAbs 0x0F0E0D0C0B0A09080706050403020100, [0xEE]) ∧
      decode [0x7D, 0x00, 0x01, 0x02, 0x03, 0x04, 0x05, 0x06, 0x07, 0x08, 0x09, 0x0A, 0x0B, 0x0C, 0x0D, 0x0E, 0x0F, 0xEE] = .ok (.adcAbsX 0x0F0E0D0C0B0A09080706050403020100, [0xEE]) ∧
      decode [0x79, 0x00, 0x01, 0x02, 0x03, 0x04, 0x05, 0x06, 0x07, 0x08, 0x09, 0x0A, 0x0B, 0x0C, 0x0D, 0x0E, 0x0F, 0xEE] = .ok (.adcAbsY 0x0F0E0D0C0B0A09080706050403020100, [0xEE]) ∧
      decode [0x63, 0xFE, 0xEE] = .ok (.adcSR 0xFE, [0xEE]) ∧
      decode [0x73, 0x02, 0xEE] = .ok (.adcSRIY 2, [0xEE]) := by
  decide

/-- The same words, encoded. -/
theorem test_encode_adc :
      encode (.adcImm8 0xFF) = [0x61, 0xFF] ∧
      encode (.adcImm16 0x1234) = [0x65, 0x34, 0x12] ∧
      encode (.adcImm32 0x12345678) = [0x67, 0x78, 0x56, 0x34, 0x12] ∧
      encode (.adcImm64 0x123456789 0xA7A6A5A4A3A2A1A0) = [0x69, 0x89, 0x67, 0x45, 0x23, 0x01, 0x00, 0x00, 0x00, 0xA0, 0xA1, 0xA2, 0xA3, 0xA4, 0xA5, 0xA6, 0xA7] ∧
      encode (.adcAbs 0x0F0E0D0C0B0A09080706050403020100) = [0x6D, 0x00, 0x01, 0x02, 0x03, 0x04, 0x05, 0x06, 0x07, 0x08, 0x09, 0x0A, 0x0B, 0x0C, 0x0D, 0x0E, 0x0F] ∧
      encode (.adcAbsX 0x0F0E0D0C0B0A09080706050403020100) = [0x7D, 0x00, 0x01, 0x02, 0x03, 0x04, 0x05, 0x06, 0x07, 0x08, 0x09, 0x0A, 0x0B, 0x0C, 0x0D, 0x0E, 0x0F] ∧
      encode (.adcAbsY 0x0F0E0D0C0B0A09080706050403020100) = [0x79, 0x00, 0x01, 0x02, 0x03, 0x04, 0x05, 0x06, 0x07, 0x08, 0x09, 0x0A, 0x0B, 0x0C, 0x0D, 0x0E, 0x0F] ∧
      encode (.adcSR 0xFE) = [0x63, 0xFE] ∧
      encode (.adcSRIY 2) = [0x73, 0x02] := by
  decide

/-- 42_branches_jumps.md section 1. -/
theorem test_decode_branches_1 :
      decode [0x90, 0xFE, 0xFF, 0xEE] = .ok (.bcc 0xFFFE, [0xEE]) ∧
      decode [0xB0, 0xFE, 0xFF, 0xEE] = .ok (.bcs 0xFFFE, [0xEE]) ∧
      decode [0xF0, 0xFE, 0xFF, 0xEE] = .ok (.beq 0xFFFE, [0xEE]) ∧
      decode [0xD0, 0xFE, 0xFF, 0xEE] = .ok (.bne 0xFFFE, [0xEE]) ∧
      decode [0x30, 0xFE, 0xFF, 0xEE] = .ok (.bmi 0xFFFE, [0xEE]) := by
  decide

/-- The same words, encoded. -/
theorem test_encode_branches_1 :
      encode (.bcc 0xFFFE) = [0x90, 0xFE, 0xFF] ∧
      encode (.bcs 0xFFFE) = [0xB0, 0xFE, 0xFF] ∧
      encode (.beq 0xFFFE) = [0xF0, 0xFE, 0xFF] ∧
      encode (.bne 0xFFFE) = [0xD0, 0xFE, 0xFF] ∧
      encode (.bmi 0xFFFE) = [0x30, 0xFE, 0xFF] := by
  decide

/-- 42_branches_jumps.md section 1. -/
theorem test_decode_branches_2 :
      decode [0x10, 0xFE, 0xFF, 0xEE] = .ok (.bpl 0xFFFE, [0xEE]) ∧
      decode [0x50, 0xFE, 0xFF, 0xEE] = .ok (.bvc 0xFFFE, [0xEE]) ∧
      decode [0x70, 0xFE, 0xFF, 0xEE] = .ok (.bvs 0xFFFE, [0xEE]) ∧
      decode [0x80, 0xFE, 0xFF, 0xEE] = .ok (.bra 0xFFFE, [0xEE]) ∧
      decode [0x82, 0x00, 0x80, 0xEE] = .ok (.brl 0x8000, [0xEE]) := by
  decide

/-- The same words, encoded. -/
theorem test_encode_branches_2 :
      encode (.bpl 0xFFFE) = [0x10, 0xFE, 0xFF] ∧
      encode (.bvc 0xFFFE) = [0x50, 0xFE, 0xFF] ∧
      encode (.bvs 0xFFFE) = [0x70, 0xFE, 0xFF] ∧
      encode (.bra 0xFFFE) = [0x80, 0xFE, 0xFF] ∧
      encode (.brl 0x8000) = [0x82, 0x00, 0x80] := by
  decide

/-- 42_branches_jumps.md section 2. -/
theorem test_decode_jumps :
      decode [0x4C, 0x00, 0x01, 0x02, 0x03, 0x04, 0x05, 0x06, 0x07, 0x08, 0x09, 0x0A, 0x0B, 0x0C, 0x0D, 0x0E, 0x0F, 0xEE] = .ok (.jmpAbs 0x0F0E0D0C0B0A09080706050403020100, [0xEE]) ∧
      decode [0x6C, 0x89, 0x67, 0x45, 0x23, 0x01, 0x00, 0x00, 0x00, 0xA0, 0xA1, 0xA2, 0xA3, 0xA4, 0xA5, 0xA6, 0xA7, 0xEE] = .ok (.jmpInd 0x123456789 0xA7A6A5A4A3A2A1A0, [0xEE]) ∧
      decode [0x7C, 0x00, 0x01, 0x02, 0x03, 0x04, 0x05, 0x06, 0x07, 0x08, 0x09, 0x0A, 0x0B, 0x0C, 0x0D, 0x0E, 0x0F, 0xEE] = .ok (.jmpXInd 0x0F0E0D0C0B0A09080706050403020100, [0xEE]) ∧
      decode [0x20, 0x00, 0x01, 0x02, 0x03, 0x04, 0x05, 0x06, 0x07, 0x08, 0x09, 0x0A, 0x0B, 0x0C, 0x0D, 0x0E, 0x0F, 0xEE] = .ok (.jsrAbs 0x0F0E0D0C0B0A09080706050403020100, [0xEE]) ∧
      decode [0xFC, 0x00, 0x01, 0x02, 0x03, 0x04, 0x05, 0x06, 0x07, 0x08, 0x09, 0x0A, 0x0B, 0x0C, 0x0D, 0x0E, 0x0F, 0xEE] = .ok (.jsrXInd 0x0F0E0D0C0B0A09080706050403020100, [0xEE]) ∧
      decode [0x60, 0xEE] = .ok (.rts, [0xEE]) := by
  decide

/-- The same words, encoded. -/
theorem test_encode_jumps :
      encode (.jmpAbs 0x0F0E0D0C0B0A09080706050403020100) = [0x4C, 0x00, 0x01, 0x02, 0x03, 0x04, 0x05, 0x06, 0x07, 0x08, 0x09, 0x0A, 0x0B, 0x0C, 0x0D, 0x0E, 0x0F] ∧
      encode (.jmpInd 0x123456789 0xA7A6A5A4A3A2A1A0) = [0x6C, 0x89, 0x67, 0x45, 0x23, 0x01, 0x00, 0x00, 0x00, 0xA0, 0xA1, 0xA2, 0xA3, 0xA4, 0xA5, 0xA6, 0xA7] ∧
      encode (.jmpXInd 0x0F0E0D0C0B0A09080706050403020100) = [0x7C, 0x00, 0x01, 0x02, 0x03, 0x04, 0x05, 0x06, 0x07, 0x08, 0x09, 0x0A, 0x0B, 0x0C, 0x0D, 0x0E, 0x0F] ∧
      encode (.jsrAbs 0x0F0E0D0C0B0A09080706050403020100) = [0x20, 0x00, 0x01, 0x02, 0x03, 0x04, 0x05, 0x06, 0x07, 0x08, 0x09, 0x0A, 0x0B, 0x0C, 0x0D, 0x0E, 0x0F] ∧
      encode (.jsrXInd 0x0F0E0D0C0B0A09080706050403020100) = [0xFC, 0x00, 0x01, 0x02, 0x03, 0x04, 0x05, 0x06, 0x07, 0x08, 0x09, 0x0A, 0x0B, 0x0C, 0x0D, 0x0E, 0x0F] ∧
      encode (.rts) = [0x60] := by
  decide

/-- 43_traps_halts.md, 44_block_move.md. -/
theorem test_decode_traps_and_block_moves :
      decode [0x00, 0xEE] = .ok (.brk, [0xEE]) ∧
      decode [0x02, 0x02, 0x05, 0x34, 0x12, 0x78, 0x56, 0xEE] = .ok (.cop 2 5 [0x1234, 0x5678], [0xEE]) ∧
      decode [0x02, 0x00, 0x7F, 0xEE] = .ok (.cop 0 0x7F [], [0xEE]) ∧
      decode [0xDB, 0xEE] = .ok (.stp, [0xEE]) ∧
      decode [0xCB, 0xEE] = .ok (.wai, [0xEE]) ∧
      decode [0x54, 0xEE] = .ok (.mvn, [0xEE]) ∧
      decode [0x44, 0xEE] = .ok (.mvp, [0xEE]) := by
  decide

/-- The same words, encoded. -/
theorem test_encode_traps_and_block_moves :
      encode (.brk) = [0x00] ∧
      encode (.cop 2 5 [0x1234, 0x5678]) = [0x02, 0x02, 0x05, 0x34, 0x12, 0x78, 0x56] ∧
      encode (.cop 0 0x7F []) = [0x02, 0x00, 0x7F] ∧
      encode (.stp) = [0xDB] ∧
      encode (.wai) = [0xCB] ∧
      encode (.mvn) = [0x54] ∧
      encode (.mvp) = [0x44] := by
  decide

/-- 45_transfers.md. -/
theorem test_decode_transfers_1 :
      decode [0xAA, 0xEE] = .ok (.tax, [0xEE]) ∧
      decode [0xA8, 0xEE] = .ok (.tay, [0xEE]) ∧
      decode [0x8A, 0xEE] = .ok (.txa, [0xEE]) ∧
      decode [0x9B, 0xEE] = .ok (.txy, [0xEE]) ∧
      decode [0x98, 0xEE] = .ok (.tya, [0xEE]) ∧
      decode [0xBB, 0xEE] = .ok (.tyx, [0xEE]) ∧
      decode [0x3B, 0xEE] = .ok (.tsa, [0xEE]) := by
  decide

/-- The same words, encoded. -/
theorem test_encode_transfers_1 :
      encode (.tax) = [0xAA] ∧
      encode (.tay) = [0xA8] ∧
      encode (.txa) = [0x8A] ∧
      encode (.txy) = [0x9B] ∧
      encode (.tya) = [0x98] ∧
      encode (.tyx) = [0xBB] ∧
      encode (.tsa) = [0x3B] := by
  decide

/-- 45_transfers.md. -/
theorem test_decode_transfers_2 :
      decode [0xBA, 0xEE] = .ok (.tsx, [0xEE]) ∧
      decode [0x1B, 0xEE] = .ok (.tas, [0xEE]) ∧
      decode [0x9A, 0xEE] = .ok (.txs, [0xEE]) ∧
      decode [0xEB, 0xEE] = .ok (.tba, [0xEE]) ∧
      decode [0x5B, 0xEE] = .ok (.tcd, [0xEE]) ∧
      decode [0x7B, 0xEE] = .ok (.tdc, [0xEE]) := by
  decide

/-- The same words, encoded. -/
theorem test_encode_transfers_2 :
      encode (.tsx) = [0xBA] ∧
      encode (.tas) = [0x1B] ∧
      encode (.txs) = [0x9A] ∧
      encode (.tba) = [0xEB] ∧
      encode (.tcd) = [0x5B] ∧
      encode (.tdc) = [0x7B] := by
  decide

/-- 46_stack.md. -/
theorem test_decode_stack_1 :
      decode [0x48, 0xEE] = .ok (.pha, [0xEE]) ∧
      decode [0xDA, 0xEE] = .ok (.phx, [0xEE]) ∧
      decode [0x5A, 0xEE] = .ok (.phy, [0xEE]) ∧
      decode [0x68, 0xEE] = .ok (.pla, [0xEE]) ∧
      decode [0xFA, 0xEE] = .ok (.plx, [0xEE]) ∧
      decode [0x7A, 0xEE] = .ok (.ply, [0xEE]) := by
  decide

/-- The same words, encoded. -/
theorem test_encode_stack_1 :
      encode (.pha) = [0x48] ∧
      encode (.phx) = [0xDA] ∧
      encode (.phy) = [0x5A] ∧
      encode (.pla) = [0x68] ∧
      encode (.plx) = [0xFA] ∧
      encode (.ply) = [0x7A] := by
  decide

/-- 46_stack.md. -/
theorem test_decode_stack_2 :
      decode [0xF4, 0x00, 0x01, 0x02, 0x03, 0x04, 0x05, 0x06, 0x07, 0x08, 0x09, 0x0A, 0x0B, 0x0C, 0x0D, 0x0E, 0x0F, 0xEE] = .ok (.peaAbs 0x0F0E0D0C0B0A09080706050403020100, [0xEE]) ∧
      decode [0xD4, 0x89, 0x67, 0x45, 0x23, 0x01, 0x00, 0x00, 0x00, 0xA0, 0xA1, 0xA2, 0xA3, 0xA4, 0xA5, 0xA6, 0xA7, 0xEE] = .ok (.peiInd 0x123456789 0xA7A6A5A4A3A2A1A0, [0xEE]) ∧
      decode [0x62, 0x10, 0x00, 0xEE] = .ok (.perRel 0x10, [0xEE]) ∧
      decode [0x08, 0xEE] = .ok (.php, [0xEE]) ∧
      decode [0x28, 0xEE] = .ok (.plp, [0xEE]) := by
  decide

/-- The same words, encoded. -/
theorem test_encode_stack_2 :
      encode (.peaAbs 0x0F0E0D0C0B0A09080706050403020100) = [0xF4, 0x00, 0x01, 0x02, 0x03, 0x04, 0x05, 0x06, 0x07, 0x08, 0x09, 0x0A, 0x0B, 0x0C, 0x0D, 0x0E, 0x0F] ∧
      encode (.peiInd 0x123456789 0xA7A6A5A4A3A2A1A0) = [0xD4, 0x89, 0x67, 0x45, 0x23, 0x01, 0x00, 0x00, 0x00, 0xA0, 0xA1, 0xA2, 0xA3, 0xA4, 0xA5, 0xA6, 0xA7] ∧
      encode (.perRel 0x10) = [0x62, 0x10, 0x00] ∧
      encode (.php) = [0x08] ∧
      encode (.plp) = [0x28] := by
  decide

/-- 47_flag_bit_ops.md. -/
theorem test_decode_flag_bits :
      decode [0xC2, 0x09, 0xEE] = .ok (.repImm8 9, [0xEE]) ∧
      decode [0xE2, 0x30, 0xEE] = .ok (.sepImm8 0x30, [0xEE]) ∧
      decode [0x1C, 0x00, 0x01, 0x02, 0x03, 0x04, 0x05, 0x06, 0x07, 0x08, 0x09, 0x0A, 0x0B, 0x0C, 0x0D, 0x0E, 0x0F, 0xEE] = .ok (.trbAbs 0x0F0E0D0C0B0A09080706050403020100, [0xEE]) ∧
      decode [0x0C, 0x00, 0x01, 0x02, 0x03, 0x04, 0x05, 0x06, 0x07, 0x08, 0x09, 0x0A, 0x0B, 0x0C, 0x0D, 0x0E, 0x0F, 0xEE] = .ok (.tsbAbs 0x0F0E0D0C0B0A09080706050403020100, [0xEE]) := by
  decide

/-- The same words, encoded. -/
theorem test_encode_flag_bits :
      encode (.repImm8 9) = [0xC2, 0x09] ∧
      encode (.sepImm8 0x30) = [0xE2, 0x30] ∧
      encode (.trbAbs 0x0F0E0D0C0B0A09080706050403020100) = [0x1C, 0x00, 0x01, 0x02, 0x03, 0x04, 0x05, 0x06, 0x07, 0x08, 0x09, 0x0A, 0x0B, 0x0C, 0x0D, 0x0E, 0x0F] ∧
      encode (.tsbAbs 0x0F0E0D0C0B0A09080706050403020100) = [0x0C, 0x00, 0x01, 0x02, 0x03, 0x04, 0x05, 0x06, 0x07, 0x08, 0x09, 0x0A, 0x0B, 0x0C, 0x0D, 0x0E, 0x0F] := by
  decide

/-- 48_shifts.md. -/
theorem test_decode_shifts_1 :
      decode [0x0E, 0x00, 0x01, 0x02, 0x03, 0x04, 0x05, 0x06, 0x07, 0x08, 0x09, 0x0A, 0x0B, 0x0C, 0x0D, 0x0E, 0x0F, 0xEE] = .ok (.aslAbs 0x0F0E0D0C0B0A09080706050403020100, [0xEE]) ∧
      decode [0x1E, 0x00, 0x01, 0x02, 0x03, 0x04, 0x05, 0x06, 0x07, 0x08, 0x09, 0x0A, 0x0B, 0x0C, 0x0D, 0x0E, 0x0F, 0xEE] = .ok (.aslAbsX 0x0F0E0D0C0B0A09080706050403020100, [0xEE]) ∧
      decode [0x4E, 0x00, 0x01, 0x02, 0x03, 0x04, 0x05, 0x06, 0x07, 0x08, 0x09, 0x0A, 0x0B, 0x0C, 0x0D, 0x0E, 0x0F, 0xEE] = .ok (.lsrAbs 0x0F0E0D0C0B0A09080706050403020100, [0xEE]) ∧
      decode [0x5E, 0x00, 0x01, 0x02, 0x03, 0x04, 0x05, 0x06, 0x07, 0x08, 0x09, 0x0A, 0x0B, 0x0C, 0x0D, 0x0E, 0x0F, 0xEE] = .ok (.lsrAbsX 0x0F0E0D0C0B0A09080706050403020100, [0xEE]) ∧
      decode [0x2E, 0x00, 0x01, 0x02, 0x03, 0x04, 0x05, 0x06, 0x07, 0x08, 0x09, 0x0A, 0x0B, 0x0C, 0x0D, 0x0E, 0x0F, 0xEE] = .ok (.rolAbs 0x0F0E0D0C0B0A09080706050403020100, [0xEE]) ∧
      decode [0x3E, 0x00, 0x01, 0x02, 0x03, 0x04, 0x05, 0x06, 0x07, 0x08, 0x09, 0x0A, 0x0B, 0x0C, 0x0D, 0x0E, 0x0F, 0xEE] = .ok (.rolAbsX 0x0F0E0D0C0B0A09080706050403020100, [0xEE]) := by
  decide

/-- The same words, encoded. -/
theorem test_encode_shifts_1 :
      encode (.aslAbs 0x0F0E0D0C0B0A09080706050403020100) = [0x0E, 0x00, 0x01, 0x02, 0x03, 0x04, 0x05, 0x06, 0x07, 0x08, 0x09, 0x0A, 0x0B, 0x0C, 0x0D, 0x0E, 0x0F] ∧
      encode (.aslAbsX 0x0F0E0D0C0B0A09080706050403020100) = [0x1E, 0x00, 0x01, 0x02, 0x03, 0x04, 0x05, 0x06, 0x07, 0x08, 0x09, 0x0A, 0x0B, 0x0C, 0x0D, 0x0E, 0x0F] ∧
      encode (.lsrAbs 0x0F0E0D0C0B0A09080706050403020100) = [0x4E, 0x00, 0x01, 0x02, 0x03, 0x04, 0x05, 0x06, 0x07, 0x08, 0x09, 0x0A, 0x0B, 0x0C, 0x0D, 0x0E, 0x0F] ∧
      encode (.lsrAbsX 0x0F0E0D0C0B0A09080706050403020100) = [0x5E, 0x00, 0x01, 0x02, 0x03, 0x04, 0x05, 0x06, 0x07, 0x08, 0x09, 0x0A, 0x0B, 0x0C, 0x0D, 0x0E, 0x0F] ∧
      encode (.rolAbs 0x0F0E0D0C0B0A09080706050403020100) = [0x2E, 0x00, 0x01, 0x02, 0x03, 0x04, 0x05, 0x06, 0x07, 0x08, 0x09, 0x0A, 0x0B, 0x0C, 0x0D, 0x0E, 0x0F] ∧
      encode (.rolAbsX 0x0F0E0D0C0B0A09080706050403020100) = [0x3E, 0x00, 0x01, 0x02, 0x03, 0x04, 0x05, 0x06, 0x07, 0x08, 0x09, 0x0A, 0x0B, 0x0C, 0x0D, 0x0E, 0x0F] := by
  decide

/-- 48_shifts.md. -/
theorem test_decode_shifts_2 :
      decode [0x6E, 0x00, 0x01, 0x02, 0x03, 0x04, 0x05, 0x06, 0x07, 0x08, 0x09, 0x0A, 0x0B, 0x0C, 0x0D, 0x0E, 0x0F, 0xEE] = .ok (.rorAbs 0x0F0E0D0C0B0A09080706050403020100, [0xEE]) ∧
      decode [0x7E, 0x00, 0x01, 0x02, 0x03, 0x04, 0x05, 0x06, 0x07, 0x08, 0x09, 0x0A, 0x0B, 0x0C, 0x0D, 0x0E, 0x0F, 0xEE] = .ok (.rorAbsX 0x0F0E0D0C0B0A09080706050403020100, [0xEE]) ∧
      decode [0x0A, 0xEE] = .ok (.aslA, [0xEE]) ∧
      decode [0x4A, 0xEE] = .ok (.lsrA, [0xEE]) ∧
      decode [0x2A, 0xEE] = .ok (.rolA, [0xEE]) ∧
      decode [0x6A, 0xEE] = .ok (.rorA, [0xEE]) := by
  decide

/-- The same words, encoded. -/
theorem test_encode_shifts_2 :
      encode (.rorAbs 0x0F0E0D0C0B0A09080706050403020100) = [0x6E, 0x00, 0x01, 0x02, 0x03, 0x04, 0x05, 0x06, 0x07, 0x08, 0x09, 0x0A, 0x0B, 0x0C, 0x0D, 0x0E, 0x0F] ∧
      encode (.rorAbsX 0x0F0E0D0C0B0A09080706050403020100) = [0x7E, 0x00, 0x01, 0x02, 0x03, 0x04, 0x05, 0x06, 0x07, 0x08, 0x09, 0x0A, 0x0B, 0x0C, 0x0D, 0x0E, 0x0F] ∧
      encode (.aslA) = [0x0A] ∧
      encode (.lsrA) = [0x4A] ∧
      encode (.rolA) = [0x2A] ∧
      encode (.rorA) = [0x6A] := by
  decide

/-- 30_encoding.md R68; COP is the one format that can end early after its size byte (R64). -/
theorem test_decode_refuses :
    decode [0xEA] = .error (.unassigned 0xEA) ∧ decode [0x42, 1, 2] = .error (.unassigned 0x42) ∧ decode [] = .error .truncated ∧
      decode [0x02, 2, 5, 0x34, 0x12, 0x78] = .error .truncated ∧ decode [0x65, 0x34] = .error .truncated := by
  decide

/-- The table's numbering: the opcode byte is bits 7 to 0; operand bytes the table gives no bits are zero. -/
theorem test_decode_table_words :
    decodeTableWord 8 0x6D = some (.adcAbs 0) ∧ decodeTableWord 24 0x1234F0 = some (.beq 0x1234) ∧
      decodeTableWord 16 0x0302 = some (.cop 3 0 [0, 0, 0]) ∧ decodeTableWord 8 0xEA = none := by
  decide

/-! ### Helpers (95_test_vectors.md section 2) -/

theorem test_H1_H3 :
    lo (h := 32) 0x1122334455667788 = 0x55667788 ∧ hi (h := 32) 0x1122334455667788 = 0x11223344 ∧
      join (h := 32) 0x55667788 0x11223344 = 0x1122334455667788 ∧ swap (h := 32) 0x1122334455667788 = 0x5566778811223344 := by
  decide
theorem test_H6_H8 : swap (h := 4) 0xA5 = 0x5A ∧ join (h := 8) 0xFF 0 = 0x00FF ∧ join (h := 8) 0 0xFF = 0xFF00 := by decide
theorem test_H11_H12 :
    trunc16 0x100012345 = 0x2345 ∧ trunc16 0xFFFFFFFFFFFF9001 = 0x9001 ∧ sext16 0xFFFE = 0xFFFFFFFFFFFFFFFE ∧
      sext8 0x80 = 0xFFFFFFFFFFFFFF80 ∧ sext8 0x7F = 0x7F := by
  decide

/-! ### Resolvers and ADC (95_test_vectors.md sections 3 and 4) -/

theorem test_E1_adc_abs :
    got (fun t => (t.a, t.p, t.pc)) (at_ 0x200 [0x6D, 0x88, 0x77, 0x66, 0x55, 0x44, 0x33, 0x22, 0x11, 0xFF, 0xFF, 0xFF, 0xFF, 0xFF, 0xFF, 0xFF, 0xFF]) = some (0x1122334455667788, 0, 0x211) := by decide
theorem test_E2_adc_abs_x :
    got (fun t => (t.a, t.pc)) (put 0x221 [5] { at_ 0x200 (0x7D :: zeros) with x := 0x20 }) = some (5, 0x211) := by decide
theorem test_E3_adc_abs_y :
    got (fun t => (t.a, t.pc)) ({ at_ 0x200 (0x79 :: 0 :: 1 :: zeros) with y := 0xFFFFFFFFFFFFFFFF }) = some (0x10079, 0x211) := by decide
theorem test_E10_adc_imm64 :
    got (fun t => (t.a, t.p, t.pc)) (at_ 0x200 (0x69 :: List.replicate 8 0xFF ++ List.replicate 8 0xAA)) = some (0xFFFFFFFFFFFFFFFF, 0x80, 0x211) := by decide
theorem test_E12_adc_sr_negative :
    got (fun t => (t.a, t.pc)) (put 0x1EE [0x66] { at_ 0x200 [0x63, 0xFE] with sp := 0x1F0 }) = some (0x66, 0x202) := by decide
theorem test_E13_adc_sriy :
    got (fun t => (t.a, t.pc)) (put 0x5003 [0x99] (put 0x1F2 [0, 0x50] { at_ 0x200 [0x73, 2] with sp := 0x1F0, y := 3 })) = some (0x99, 0x202) := by decide
theorem test_A1 :
    got (fun t => (t.a, t.p)) ({ at_ 0x200 [0x69, 0x01, 0x00, 0x00, 0x00, 0x00, 0x00, 0x00, 0x00, 0x00, 0x00, 0x00, 0x00, 0x00, 0x00, 0x00, 0x00] with a := 0x7FFFFFFFFFFFFFFF, p := 0x0 }) = some (0x8000000000000000, 0xC0) := by decide
theorem test_A12_no_byte_wrap :
    got (fun t => (t.a, t.p)) ({ at_ 0x200 [0x61, 0x01] with a := 0xFF, p := 0x0 }) = some (0x100, 0x0) := by decide
theorem test_A18_decimal_ripple :
    got (fun t => (t.a, t.p)) ({ at_ 0x200 [0x61, 0x01] with a := 0x9999999999999999, p := 0x8 }) = some (0x0, 0xA) := by decide
theorem test_A13_no_word_wrap :
    got (fun t => (t.a, t.p)) ({ at_ 0x200 [0x65, 0x01, 0x00] with a := 0xFFFF, p := 0x1 }) = some (0x10001, 0x0) := by decide
theorem test_A23_decimal_word :
    got (fun t => (t.a, t.p)) ({ at_ 0x200 [0x65, 0x21, 0x43] with a := 0x1234, p := 0x8 }) = some (0x5555, 0x8) := by decide
theorem test_A15_dword_zero_extended :
    got (fun t => (t.a, t.p)) ({ at_ 0x200 [0x67, 0xFF, 0xFF, 0xFF, 0xFF] with a := 0xFFFFFFFF, p := 0x0 }) = some (0x1FFFFFFFE, 0x0) := by decide
theorem test_A14 :
    got (fun t => (t.a, t.p)) ({ at_ 0x200 [0x67, 0x01, 0x00, 0x00, 0x00] with a := 0x7FFFFFFFFFFFFFFF, p := 0x0 }) = some (0x8000000000000000, 0xC0) := by decide

/-! ### Branches, jumps, JSR, RTS (95_test_vectors.md section 5) -/

theorem test_B1_bcc :
    got (fun t => (t.pc, t.p)) { at_ 0x1000 [0x90, 0xFF, 0x0F] with p := 0xFE } = some (0x2000, 0xFE) ∧
      got (fun t => (t.pc, t.p)) { at_ 0x1000 [0x90, 0xFF, 0x0F] with p := 0x01 } = some (0x1003, 0x01) := by decide
theorem test_B2_bcs :
    got (fun t => (t.pc, t.p)) { at_ 0x1000 [0xB0, 0xFF, 0x0F] with p := 0xFE } = some (0x1003, 0xFE) ∧
      got (fun t => (t.pc, t.p)) { at_ 0x1000 [0xB0, 0xFF, 0x0F] with p := 0x01 } = some (0x2000, 0x01) := by decide
theorem test_B3_beq :
    got (fun t => (t.pc, t.p)) { at_ 0x1000 [0xF0, 0xFF, 0x0F] with p := 0xFD } = some (0x1003, 0xFD) ∧
      got (fun t => (t.pc, t.p)) { at_ 0x1000 [0xF0, 0xFF, 0x0F] with p := 0x02 } = some (0x2000, 0x02) := by decide
theorem test_B4_bne :
    got (fun t => (t.pc, t.p)) { at_ 0x1000 [0xD0, 0xFF, 0x0F] with p := 0xFD } = some (0x2000, 0xFD) ∧
      got (fun t => (t.pc, t.p)) { at_ 0x1000 [0xD0, 0xFF, 0x0F] with p := 0x02 } = some (0x1003, 0x02) := by decide
theorem test_B5_bmi :
    got (fun t => (t.pc, t.p)) { at_ 0x1000 [0x30, 0xFF, 0x0F] with p := 0x7F } = some (0x1003, 0x7F) ∧
      got (fun t => (t.pc, t.p)) { at_ 0x1000 [0x30, 0xFF, 0x0F] with p := 0x80 } = some (0x2000, 0x80) := by decide
theorem test_B6_bpl :
    got (fun t => (t.pc, t.p)) { at_ 0x1000 [0x10, 0xFF, 0x0F] with p := 0x7F } = some (0x2000, 0x7F) ∧
      got (fun t => (t.pc, t.p)) { at_ 0x1000 [0x10, 0xFF, 0x0F] with p := 0x80 } = some (0x1003, 0x80) := by decide
theorem test_B7_bvc :
    got (fun t => (t.pc, t.p)) { at_ 0x1000 [0x50, 0xFF, 0x0F] with p := 0xBF } = some (0x2000, 0xBF) ∧
      got (fun t => (t.pc, t.p)) { at_ 0x1000 [0x50, 0xFF, 0x0F] with p := 0x40 } = some (0x1003, 0x40) := by decide
theorem test_B8_bvs :
    got (fun t => (t.pc, t.p)) { at_ 0x1000 [0x70, 0xFF, 0x0F] with p := 0xBF } = some (0x1003, 0xBF) ∧
      got (fun t => (t.pc, t.p)) { at_ 0x1000 [0x70, 0xFF, 0x0F] with p := 0x40 } = some (0x2000, 0x40) := by decide
theorem test_B11_bra_crosses_64K :
    got (fun t => t.pc) (at_ 0xFFF0 [0x80, 0x20, 0]) = some 0x11 := by decide
theorem test_B15_brl_most_negative :
    got (fun t => t.pc) (at_ 0x1000 [0x82, 0, 0x80]) = some 0x9001 := by decide
theorem test_B13_not_taken_keeps_upper_bits :
    got (fun t => t.pc) ({ at_ 0x100001000 [0xD0, 0x0F, 0] with p := 2 }) = some 0x100001003 := by decide
theorem test_J1_jmp_abs :
    got (fun t => t.pc) (at_ 0x200 (0x4C :: 0 :: 0x30 :: zeros)) = some 0x201 := by decide
theorem test_E4_jmp_ind :
    got (fun t => t.pc) (at_ 0x200 ([0x6C, 0x89, 0x67, 0x45, 0x23, 1] ++ zeros)) = some 0x6789 := by decide
theorem test_E5_jmp_x_ind :
    got (fun t => t.pc) ({ at_ 0x200 ([0x7C, 0x11, 0x11, 0, 0, 0, 0, 0, 0, 0, 0x40] ++ zeros) with x := 8 }) = some 0x4000 := by decide
theorem test_J4_jsr_x_ind :
    got (fun t => (t.pc, t.read16 0x1FE, t.sp)) ({ at_ 0x1FFF0 ([0xFC, 0, 0x40] ++ zeros) with sp := 0x1FE }) = some (0x4000, 1, 0x1FC) := by decide
theorem test_J5_jsr_abs :
    got (fun t => (t.pc, t.read16 0x1FE, t.sp)) ({ at_ 0x200 (0x20 :: zeros) with sp := 0x1FE }) = some (0x201, 0x211, 0x1FC) := by decide
theorem test_J7_rts_wraps :
    got (fun t => (t.pc, t.sp)) (put 0 [0x34, 0x12] { at_ 0x200 [0x60] with sp := 0xFFFFFFFFFFFFFFFE }) = some (0x1234, 0) := by decide

/-! ### BRK, COP, STP, WAI, MVN, MVP (95_test_vectors.md sections 6 and 7) -/

theorem test_T1_brk :
    got (fun t => (t.pc, t.read16 0x1FE, t.read8 0x1FC, t.sp, t.p, t.stop)) (put 0xFFE6 [0, 0x80] { at_ 0x300 [0] with sp := 0x1FE, p := 9 }) = some (0x8000, 0x301, 9, 0x1FB, 5, .running) := by decide
theorem test_T2_cop :
    got (fun t => (t.pc, t.cop, t.stop)) (at_ 0x400 [2, 2, 5, 0x34, 0x12, 0x78, 0x56]) = some (0x407, some ⟨2, 5, [0x1234, 0x5678]⟩, .coprocessor) := by decide
theorem test_T3_cop_of_size_0 :
    got (fun t => (t.pc, t.cop)) (at_ 0x400 [2, 0, 0x7F]) = some (0x403, some ⟨0, 0x7F, []⟩) := by decide
theorem test_T5_stp :
    got (fun t => (t.pc, t.stop, t.p)) (at_ 0x500 [0xDB]) = some (0x501, .stop, 0) := by decide
theorem test_T6_wai :
    got (fun t => (t.pc, t.stop, t.interrupted)) ({ at_ 0x500 [0xCB] with interrupted := true }) = some (0x501, .wait, true) := by decide
theorem test_T7_illegal_opcode : step { at_ 0x700 [0xEA] with a := 5 } = .fault (.illegalOpcode 0xEA 0x700) := by rfl
theorem test_T7_halted_core :
    (fun t : State => (t.pc, t.tpc, t.stop, t.p, t.illegal)) { at_ 0x700 [0xEA] with p := 0x24 }.hostStep.2 =
      (0x701, 0x700, .stop, 0x24, [(0xEA, 0x700)]) := by
  decide
theorem test_M1_mvn :
    got (fun t => (t.a, t.pc)) ({ at_ 0x600 [0x54] with a := 0x30001 }) = some (0x30000, 0x600) := by decide
theorem test_M3_mvp :
    got (fun t => (t.a, t.pc)) (at_ 0x600 [0x44]) = some (0xFFFF, 0x601) := by decide

/-! ### Transfers (95_test_vectors.md section 8) -/

theorem test_X1_tax :
    got (fun t => (t.x, t.p)) ({ at_ 0 [0xAA] with a := 0x8000000000000000 }) = some (0x8000000000000000, 0x80) := by decide
theorem test_X2_tay :
    got (fun t => (t.y, t.p)) ({ at_ 0 [0xA8] with y := 7, p := 0x80 }) = some (0, 2) := by decide
theorem test_X3_txa :
    got (fun t => (t.a, t.p)) ({ at_ 0 [0x8A] with x := 0x100000000, p := 2 }) = some (0x100000000, 0) := by decide
theorem test_X4_txy :
    got (fun t => (t.y, t.p)) ({ at_ 0 [0x9B] with x := 0x12, y := 3 }) = some (0x12, 0) := by decide
theorem test_X5_tya :
    got (fun t => (t.a, t.p)) ({ at_ 0 [0x98] with y := 0xFFFFFFFFFFFFFFFF }) = some (0xFFFFFFFFFFFFFFFF, 0x80) := by decide
theorem test_X6_tyx :
    got (fun t => (t.x, t.p)) ({ at_ 0 [0xBB] with x := 3 }) = some (0, 2) := by decide
theorem test_X7_tsa :
    got (fun t => (t.a, t.p)) ({ at_ 0 [0x3B] with sp := 0x1FE }) = some (0x1FE, 0) := by decide
theorem test_X8_tsx :
    got (fun t => (t.x, t.p)) ({ at_ 0 [0xBA] with sp := 0xFFFFFFFFFFFFFFF0 }) = some (0xFFFFFFFFFFFFFFF0, 0x80) := by decide
theorem test_X9_tas :
    got (fun t => (t.sp, t.p)) ({ at_ 0 [0x1B] with sp := 9, p := 0x80 }) = some (0, 0x80) := by decide
theorem test_X10_txs :
    got (fun t => (t.sp, t.p)) ({ at_ 0 [0x9A] with x := 0x8000000000000000, p := 2 }) = some (0x8000000000000000, 2) := by decide
theorem test_X11_tba :
    got (fun t => (t.a, t.b, t.p)) ({ at_ 0 [0xEB] with b := 0x55 }) = some (0x55, 0x55, 0) := by decide
theorem test_X12_tcd :
    got (fun t => (t.d, t.p)) ({ at_ 0 [0x5B] with a := 0x8000000000000000 }) = some (0x8000000000000000, 0) := by decide
theorem test_X13_tdc :
    got (fun t => (t.a, t.p)) ({ at_ 0 [0x7B] with a := 9 }) = some (0, 2) := by decide

/-! ### Stack (95_test_vectors.md section 9) -/

theorem test_K3_pha :
    got (fun t => (t.read16 0x1FE, t.sp)) ({ at_ 0x200 [0x48] with a := 0x1122334455667788, sp := 0x1FE }) = some (0x7788, 0x1FC) := by decide
theorem test_K6_phx :
    got (fun t => (t.read16 0x1FE, t.sp)) ({ at_ 0x200 [0xDA] with x := 0x1111, sp := 0x1FE }) = some (0x1111, 0x1FC) := by decide
theorem test_K6_phy :
    got (fun t => (t.read16 0x1FC, t.sp)) ({ at_ 0x200 [0x5A] with y := 0x2222, sp := 0x1FC }) = some (0x2222, 0x1FA) := by decide
theorem test_K4_pla :
    got (fun t => (t.a, t.p, t.sp)) ({ at_ 0x200 [0x68] with a := 0xFFFF000000001234, sp := 0x1FC }) = some (0xFFFF000000000000, 2, 0x1FE) := by decide
theorem test_K5_plx :
    got (fun t => (t.x, t.p)) (put 0x1FE [0, 0x80] { at_ 0x200 [0xFA] with x := 0x12345, sp := 0x1FC }) = some (0x18000, 0x80) := by decide
theorem test_K5_ply :
    got (fun t => (t.y, t.p)) (put 0x1FE [0, 0x80] { at_ 0x200 [0x7A] with y := 0x12345, sp := 0x1FC }) = some (0x18000, 0x80) := by decide
theorem test_K7_pea :
    got (fun t => (t.read16 0x1FE, t.sp, t.pc)) ({ at_ 0x200 ([0xF4, 0x34, 0x12] ++ zeros) with sp := 0x1FE }) = some (0x1234, 0x1FC, 0x211) := by decide
theorem test_K8_pei :
    got (fun t => (t.read16 0x1FE, t.sp)) (put 0x3000 [0xEF, 0xBE] { at_ 0x200 ([0xD4, 0, 0x30] ++ zeros) with sp := 0x1FE }) = some (0xBEEF, 0x1FC) := by decide
theorem test_K9_per :
    got (fun t => (t.read16 0x1FE, t.sp, t.pc)) ({ at_ 0x200 [0x62, 0x10, 0] with sp := 0x1FE }) = some (0x211, 0x1FC, 0x203) := by decide
theorem test_K10_php :
    got (fun t => (t.read8 0x1FE, t.sp)) ({ at_ 0x200 [8] with p := 0xC3, sp := 0x1FE }) = some (0xC3, 0x1FD) := by decide
theorem test_K11_plp :
    got (fun t => (t.p, t.sp)) (put 0x1FE [0xFF] { at_ 0x200 [0x28] with sp := 0x1FD }) = some (0xFF, 0x1FE) := by decide
theorem test_K2_wraps :
    (State.reset.push16 0xBEEF).sp = 0xFFFFFFFFFFFFFFFE ∧ (State.reset.push16 0xBEEF).pull16Value = 0xBEEF ∧
      (State.reset.push16 0xBEEF).pull16.sp = 0 := by
  decide

/-! ### REP, SEP, TRB, TSB and the shifts (95_test_vectors.md sections 10 and 11) -/

theorem test_F1_rep :
    got (fun t => t.p) ({ at_ 0x200 [0xC2, 9] with p := 0xCF }) = some 0xC6 := by decide
theorem test_F6_sep :
    got (fun t => t.p) ({ at_ 0x200 [0xE2, 0x30] with p := 1 }) = some 0x31 := by decide
theorem test_F7_trb :
    got (fun t => (t.read64 0x201, t.p, t.pc)) ({ at_ 0x200 ([0x1C, 0x3C] ++ zeros) with a := 0xF, p := 0x80 }) = some (0x30, 0x80, 0x211) := by decide
theorem test_F10_trb :
    got (fun t => (t.read64 0x201, t.read64 0x209, t.p)) ({ at_ 0x200 (0x1C :: List.replicate 16 0xFF) with a := 0xFFFFFFFFFFFFFFFF }) = some (0, 0xFFFFFFFFFFFFFFFF, 0) := by decide
theorem test_F8_tsb :
    got (fun t => (t.read64 0x201, t.p)) ({ at_ 0x200 ([0x0C, 0x30] ++ zeros) with a := 0xF }) = some (0x3F, 2) := by decide
theorem test_SH21_asl :
    got (fun t => (t.read16 0x201, t.p, t.read8 0x203)) ({ at_ 0x200 ([0x0e, 0x00, 0x80] ++ List.replicate 14 0xEE) with p := 1 }) = some (0x0, 0x03, 0xEE) := by decide
theorem test_SH22_asl :
    got (fun t => (t.read16 0x201, t.p, t.read8 0x203)) ({ at_ 0x200 ([0x0e, 0xff, 0xff] ++ List.replicate 14 0xEE) with p := 0 }) = some (0xFFFE, 0x81, 0xEE) := by decide
theorem test_SH23_lsr :
    got (fun t => (t.read16 0x201, t.p, t.read8 0x203)) ({ at_ 0x200 ([0x4e, 0x03, 0x80] ++ List.replicate 14 0xEE) with p := 0 }) = some (0x4001, 0x01, 0xEE) := by decide
theorem test_SH24_lsr :
    got (fun t => (t.read16 0x201, t.p, t.read8 0x203)) ({ at_ 0x200 ([0x4e, 0x01, 0x00] ++ List.replicate 14 0xEE) with p := 1 }) = some (0x0, 0x03, 0xEE) := by decide
theorem test_SH25_rol :
    got (fun t => (t.read16 0x201, t.p, t.read8 0x203)) ({ at_ 0x200 ([0x2e, 0x00, 0x40] ++ List.replicate 14 0xEE) with p := 1 }) = some (0x8001, 0x80, 0xEE) := by decide
theorem test_SH26_rol :
    got (fun t => (t.read16 0x201, t.p, t.read8 0x203)) ({ at_ 0x200 ([0x2e, 0x00, 0x80] ++ List.replicate 14 0xEE) with p := 0 }) = some (0x0, 0x03, 0xEE) := by decide
theorem test_SH28_ror :
    got (fun t => (t.read16 0x201, t.p, t.read8 0x203)) ({ at_ 0x200 ([0x6e, 0x02, 0x00] ++ List.replicate 14 0xEE) with p := 1 }) = some (0x8001, 0x80, 0xEE) := by decide
theorem test_SH29_ror :
    got (fun t => (t.read16 0x201, t.p, t.read8 0x203)) ({ at_ 0x200 ([0x6e, 0x01, 0x00] ++ List.replicate 14 0xEE) with p := 0 }) = some (0x0, 0x03, 0xEE) := by decide
theorem test_SH31_asl_x :
    got (fun t => (t.read16 0x301, t.p)) (put 0x301 [1, 0x40] { at_ 0x200 (0x1E :: zeros) with x := 0x100 }) = some (0x8002, 0x80) := by decide
theorem test_lsr_x :
    got (fun t => (t.read16 0x301, t.p, t.read16 0x201)) (put 0x301 [0x03, 0x80] { at_ 0x200 (0x5e :: zeros) with x := 0x100, p := 0 }) = some (0x4001, 0x01, 0) := by decide
theorem test_rol_x :
    got (fun t => (t.read16 0x301, t.p, t.read16 0x201)) (put 0x301 [0x00, 0x40] { at_ 0x200 (0x3e :: zeros) with x := 0x100, p := 1 }) = some (0x8001, 0x80, 0) := by decide
theorem test_ror_x :
    got (fun t => (t.read16 0x301, t.p, t.read16 0x201)) (put 0x301 [0x02, 0x00] { at_ 0x200 (0x7e :: zeros) with x := 0x100, p := 1 }) = some (0x8001, 0x80, 0) := by decide
theorem test_SH40_asl_a :
    got (fun t => (t.a, t.p)) ({ at_ 0x200 [0x0a] with a := 0x18000, p := 0 }) = some (0x10000, 0x03) := by decide
theorem test_SH41_lsr_a :
    got (fun t => (t.a, t.p)) ({ at_ 0x200 [0x4a] with a := 0x10001, p := 0 }) = some (0x10000, 0x03) := by decide
theorem test_SH45_rol_a :
    got (fun t => (t.a, t.p)) ({ at_ 0x200 [0x2a] with a := 0xABCD00007FFF, p := 1 }) = some (0xABCD0000FFFF, 0x80) := by decide
theorem test_SH44_ror_a :
    got (fun t => (t.a, t.p)) ({ at_ 0x200 [0x6a] with a := 0xFFFF0000, p := 1 }) = some (0xFFFF8000, 0x80) := by decide

/-! ### Host operations, the facade machine, the trace (95_test_vectors.md section 12 and E15) -/

/-- A core stopped with a capture. -/
def stoppedCop : State := { State.reset with stop := .coprocessor, cop := some ⟨2, 5, [0x1234, 0x5678]⟩ }

theorem test_C3_resume_keeps_the_capture : stoppedCop.resume.stop = .running ∧ stoppedCop.resume.getCopInstSize = 2 := by decide
theorem test_C6_drain_of_nothing : State.reset.getCopInstSize = 0 ∧ State.reset.getCopInst = (0, []) := by decide
theorem test_C7_interrupt_then_tax : got (fun t => (t.interrupted, t.stop)) (at_ 0 [0xAA]).interrupt = some (true, .running) := by decide
theorem test_C8_reset :
    (fun t : State => (t.stop, t.cycles, t.trace, t.cop)) (hostCall (.reset ResetState.zero true) stoppedCop).2 =
      (.running, 0, true, none) := by
  decide
theorem test_T2_drained_once :
    (hostCall .getCopInst stoppedCop).1 = .copInst 5 [0x1234, 0x5678] ∧
      (hostCall .getCopInst (hostCall .getCopInst stoppedCop).2).1 = .copInst 0 [] := by
  decide

/-- E15: the same BEQ with `REL_BASE = 2`. -/
theorem test_E15_relative_base_2 :
    (match facadeStep endian .nextInstruction opcodeMap { at_ 0x1000 [0xF0, 0x10, 0] with p := 2 } with
      | .next t => t.pc
      | .fault _ => 0
      | .refused _ => 0) = 0x1013 := by
  decide

/-! ### A facade with `ENDIAN = big` (00_scope.md R4, 20_memory.md R45): byte `i` of `n` is worth `256^(n - 1 - i)` -/

/-- What `f` sees in the next state of a step behind a big-endian facade. -/
def gotBig {α : Type} (f : State → α) (s : State) : Option α :=
  match facadeStep .big relBase opcodeMap s with
  | .next t => some (f t)
  | .fault _ => none
  | .refused _ => none

theorem test_big_adc_w : gotBig (fun t => t.a) (at_ 0x200 [0x65, 0x12, 0x34]) = some 0x1234 := by decide
theorem test_big_displacement : gotBig (fun t => t.pc) (at_ 0x1000 [0x80, 0, 0x10]) = some 0x1011 := by decide
theorem test_big_pointer : gotBig (fun t => t.pc) (at_ 0x200 [0x6C, 0, 0, 0, 0, 0, 0, 0x67, 0x89]) = some 0x6789 := by decide
theorem test_big_brk :
    gotBig (fun t => (t.read8 0x1FE, t.read8 0x1FF, t.pc)) (put 0xFFE6 [0x80, 0] { at_ 0x300 [0] with sp := 0x1FE }) =
      some (0x03, 0x01, 0x8000) := by
  decide
theorem test_big_cop : gotBig (fun t => t.cop) (at_ 0x400 [2, 1, 5, 0x12, 0x34]) = some (some ⟨1, 5, [0x1234]⟩) := by decide
theorem test_big_asl :
    gotBig (fun t => (t.read8 0x201, t.read8 0x202, t.flag .carry)) (at_ 0x200 [0x0E, 0x40, 0x81]) = some (0x81, 0x02, false) := by
  decide

/-- 20_memory.md R48: the calls of BRK, in order. -/
theorem test_accesses_brk :
    stepAccesses { at_ 0x300 [0] with sp := 0x1FE, p := 9 } =
      [.read 0x300 1, .write 0x1FE 2 0x301, .write 0x1FC 1 9, .read 0xFFE6 2] := by
  decide

/-- 60_exceptions.md R231. -/
theorem test_trace_event : stepEvent { at_ 0x200 [0x65] with trace := true } = some ⟨"ADC.w", some 0x201⟩ := by decide

/-! ### The hypotheses of the statements are met -/

/-- The next state of a step, or the state itself. -/
def next (s : State) : State :=
  match step s with
  | .next t => t
  | .fault _ => s
  | .refused _ => s

theorem witness_DecodeOfEncode : (Instr.cop 2 5 [0x1234, 0x5678]).wf = true ∧ (Instr.adcAbs 0x0F).wf = true := by decide

theorem witness_EveryDecodedByteString : decode [0x02, 1, 5, 0x34, 0x12, 0xDB] = .ok (.cop 1 5 [0x1234], [0xDB]) := by decide

theorem witness_Unassigned : (0xEA : Byte) ∉ opcodeMap.map Prod.fst ∧ (0xFC : Byte) ∈ opcodeMap.map Prod.fst := by decide

theorem witness_StepRunsTheInstructionAtPc :
    let s := at_ 0x200 [0x65, 0x34, 0x12]
    s.stop = .running ∧ (Instr.adcImm16 0x1234).wf = true ∧
      s.mem.readBytes (encode (.adcImm16 0x1234)).length s.pc = encode (.adcImm16 0x1234) := by
  decide

/-- One state for each case: stopped, running at an assigned byte, running at an unassigned byte. -/
theorem witness_StepOutcomes :
    (at_ 0x200 [0xAA]).read8 0x200 ∈ opcodeMap.map Prod.fst ∧ stoppedCop.stop ≠ .running ∧
      (at_ 0x200 [0xEA]).stop = .running ∧ (at_ 0x200 [0xEA]).read8 0x200 ∉ opcodeMap.map Prod.fst := by
  decide

theorem witness_StoppedCore : { State.reset with stop := .wait }.stop ≠ .running := by decide

theorem witness_reset_inv : Inv State.reset := ⟨rfl, rfl, fun _ h => nomatch h⟩

theorem witness_capture_inv : Inv stoppedCop := ⟨rfl, rfl, fun c h => by cases h; decide⟩

/-- A step from a state with the invariant answers a next state. -/
theorem witness_StepKeepsTheInvariant : Inv (at_ 0x400 [2, 0, 5]) ∧ ∃ t, step (at_ 0x400 [2, 0, 5]) = .next t :=
  ⟨⟨by decide, rfl, fun _ h => nomatch h⟩, _, rfl⟩

theorem witness_ResetMeetsTheInvariant : ResetState.zero.z.length = 128 ∧ stoppedCop.mem.wf = true := ⟨rfl, rfl⟩

theorem witness_HostCallsKeepTheInvariant :
    ResetsWhole [.step, .reset ResetState.zero true, .getCopInst] ∧ Inv stoppedCop := by
  refine ⟨fun rs t h => ?_, witness_capture_inv⟩
  simp only [List.mem_cons, List.not_mem_nil, or_false, reduceCtorEq, false_or] at h
  cases h
  rfl

/-- Every instruction answers a next state in every state, so `exec i s = .next t` is met by some `t` for each `i` and `s`. -/
theorem witness_exec_answers (i : Instr) (s : State) : ∃ t, exec i s = .next t := exec_answers_next i s

/-- One state and instruction for each register clause: A, X, Y, SP, D change. -/
theorem witness_RegistersChange :
    got (fun t => t.a) (at_ 0 [0x61, 1]) = some 1 ∧ got (fun t => t.x) { at_ 0 [0xAA] with a := 1 } = some 1 ∧
      got (fun t => t.y) { at_ 0 [0xA8] with a := 1 } = some 1 ∧ got (fun t => t.sp) (at_ 0 [0x68]) = some 2 ∧
      got (fun t => t.d) { at_ 0 [0x5B] with a := 1 } = some 1 := by
  decide

/-- The flags that have a writer change: C, V by ADC, N and Z by TAX, I by BRK, D, T and Parity by SEP. -/
theorem witness_FlagsChange :
    got (fun t => (t.flag .carry, t.flag .overflow)) { at_ 0 [0x61, 0] with a := 0xFFFFFFFFFFFFFFFF, p := 1 } = some (true, false) ∧
      got (fun t => t.flag .overflow) { at_ 0 [0x61, 1] with a := 0x7FFFFFFFFFFFFFFF } = some true ∧
      got (fun t => t.flag .zero) (at_ 0 [0xAA]) = some true ∧
      got (fun t => t.flag .negative) { at_ 0 [0xAA] with a := 0x8000000000000000 } = some true ∧
      got (fun t => t.flag .interruptDisable) (at_ 0x300 [0]) = some true ∧
      got (fun t => (t.flag .decimal, t.flag .trap, t.flag .parity)) (at_ 0 [0xE2, 0x38]) = some (true, true, true) := by
  decide

theorem witness_MemoryChanges :
    got (fun t => t.read8 0x1FE) { at_ 0 [0x48] with a := 7, sp := 0x1FE } = some 7 ∧ (at_ 0 [0x48]).read8 0x1FE = 0 := by
  decide

/-- COP, STP and WAI, each reached by a step. -/
theorem witness_ControllerChanges :
    got (fun t => t.stop) (at_ 0 [0x02]) = some .coprocessor ∧ got (fun t => t.stop) (at_ 0 [0xDB]) = some .stop ∧
      got (fun t => t.stop) (at_ 0 [0xCB]) = some .wait ∧ got (fun t => t.cop) (at_ 0 [0x02]) = some (some ⟨0, 0, []⟩) := by
  decide

theorem witness_Cycles : opcodeMap.lookup (Instr.bcc 0).opcode = some ⟨.rel, .bcc, none⟩ ∧ ∃ t, exec (.bcc 0) State.reset = .next t :=
  ⟨by decide, _, rfl⟩

theorem witness_ProgramCounterAdvances :
    (Instr.cop 1 5 [0x1234]).wf = true ∧ assignsPC (.cop 1 5 [0x1234]) = false ∧ ∃ t, exec (.cop 1 5 [0x1234]) State.reset = .next t :=
  ⟨by decide, by decide, _, rfl⟩

theorem witness_ControlTransfers :
    (∀ i ∈ [Instr.bra 0, .brl 0, .jmpAbs 0, .jmpInd 0 0, .jmpXInd 0, .jsrAbs 0, .jsrXInd 0, .rts, .brk], alwaysTruncates i = true) ∧
      ∃ t, exec .rts State.reset = .next t :=
  ⟨by decide, _, rfl⟩

/-- Sixteen digit pairs whose sums are at most 14, the sum 14 among them. -/
theorem witness_DecimalDigits :
    ∀ i < 16, digit 0x9876543210012345 i ≤ 9 ∧ digit 0x5432101234554321 i ≤ 9 ∧
      digit 0x9876543210012345 i + digit 0x5432101234554321 i ≤ 14 := by
  decide

theorem witness_RtsReturnsFromJsr :
    (∃ t, exec (.jsrAbs 0) State.reset = .next t) ∧ ∃ t, exec (.jsrXInd 0) State.reset = .next t := ⟨⟨_, rfl⟩, _, rfl⟩

theorem witness_PlpThenRts : ∃ t, exec .brk State.reset = .next t := ⟨_, rfl⟩

theorem witness_SteppedCop :
    (at_ 0x400 [2, 2, 5, 0x34, 0x12, 0x78, 0x56]).stop = .running ∧ (at_ 0x400 [2, 2, 5, 0x34, 0x12, 0x78, 0x56]).read8 0x400 = 2 := by
  decide

/-- Both block moves, with the count at its two ends. -/
theorem witness_BlockMove :
    got (fun t => (t.a, t.pc)) { at_ 0x600 [0x54] with a := 0xFFFF } = some (0xFFFE, 0x600) ∧
      got (fun t => (t.a, t.pc)) (at_ 0x600 [0x44]) = some (0xFFFF, 0x601) := by
  decide

/-- A well-formed map with a byte it leaves undefined, and an ill-formed one, both met by a running core. -/
theorem witness_EveryWellFormedOpcodeMap :
    OpcodeMap.wf [(0xAA, ⟨.abs, .jmp, none⟩)] = true ∧ OpcodeMap.wf [(0xAA, ⟨.impl, .jmp, none⟩)] = false ∧ State.reset.stop = .running := by
  decide

theorem witness_InterruptTwice : { State.reset with interrupted := true }.interrupted = true := by decide

/-- A sequence of calls after a drain in which no step executes a COP. -/
theorem witness_NoCop : NoCop [.resume, .step, .getCopInst] (hostCall .getCopInst stoppedCop).2 := by
  have h : fetchInstr (hostCall .resume (hostCall .getCopInst stoppedCop).2).2.mem 0 = .ok (.brk, []) := rfl
  refine ⟨by simp, ⟨?_, ?_, trivial⟩⟩
  · intro _ _ size op words rest hc
    cases h.symm.trans hc
  · simp

theorem witness_Drain : stoppedCop.cop = some ⟨2, 5, [0x1234, 0x5678]⟩ ∧ State.reset.cop = none := by decide

theorem witness_IllegalOpcode : (at_ 0x700 [0xEA]).stop = .running ∧ (at_ 0x700 [0xEA]).read8 0x700 ∉ opcodeMap.map Prod.fst := by decide

/-- One running, tracing state for each byte of the map, and a byte the map does not name. -/
theorem witness_Trace :
    (∀ r ∈ eventRows,
      let s := { at_ 0x200 [r.1] with trace := true }
      s.stop = .running ∧ s.trace = true ∧ s.read8 s.pc = r.1) ∧
      (0xEA : Byte) ∉ opcodeMap.map Prod.fst := by
  decide

end Sys2Proof.Tests
end

section
/-! Proofs for 10_state.md: the halves of a value (R19), the well-formedness of what the decoder answers, the invariant along a step, and the
state after reset. -/

namespace Sys2Proof.Machine

/-! ### The halves of a value (10_state.md R19) -/

theorem lo_toNat {h : Nat} (v : BitVec (h + h)) : (lo v).toNat = v.toNat % 2 ^ h := by
  simp [lo]

theorem hi_toNat {h : Nat} (v : BitVec (h + h)) : (hi v).toNat = v.toNat / 2 ^ h := by
  have hv : v.toNat / 2 ^ h < 2 ^ h := Nat.div_lt_of_lt_mul (Nat.pow_add 2 h h ▸ v.isLt)
  rw [hi, BitVec.extractLsb'_toNat, Nat.shiftRight_eq_div_pow, Nat.mod_eq_of_lt hv]

theorem join_toNat {h : Nat} (l u : BitVec h) : (join l u).toNat = u.toNat * 2 ^ h + l.toNat := by
  rw [join, BitVec.toNat_append, ← Nat.shiftLeft_add_eq_or_of_lt l.isLt, Nat.shiftLeft_eq]

theorem join_lo_hi {h : Nat} (v : BitVec (h + h)) : join (lo v) (hi v) = v := by
  apply BitVec.eq_of_toNat_eq
  rw [join_toNat, hi_toNat, lo_toNat, Nat.div_add_mod']

theorem lo_join {h : Nat} (l u : BitVec h) : lo (join l u) = l := by
  apply BitVec.eq_of_toNat_eq
  rw [lo_toNat, join_toNat, Nat.mul_add_mod_self_right, Nat.mod_eq_of_lt l.isLt]

theorem hi_join {h : Nat} (l u : BitVec h) : hi (join l u) = u := by
  apply BitVec.eq_of_toNat_eq
  rw [hi_toNat, join_toNat, Nat.mul_comm, Nat.mul_add_div (Nat.two_pow_pos h), Nat.div_eq_of_lt l.isLt, Nat.add_zero]

theorem swap_swap {h : Nat} (v : BitVec (h + h)) : swap (swap v) = v := by
  rw [swap, swap, hi_join, lo_join, join_lo_hi]

/-! ### What the decoder answers is well-formed (30_encoding.md R64) -/

theorem wordsOfBytes_length (e : Endian) (n : Nat) (bs : List Byte) (h : bs.length = 2 * n) : (wordsOfBytes e bs).length = n := by
  induction n generalizing bs with
  | zero =>
    obtain rfl := List.length_eq_zero_iff.mp h
    rfl
  | succ n ih =>
    match bs, h with
    | _ :: _ :: r, h => simpa [wordsOfBytes] using ih r (by simpa [Nat.mul_succ] using h)

/-- An instruction answered by the decoder is well-formed. -/
def AnswersWf : Decoded → Prop
  | .ok (i, _) => i.wf = true
  | .error _ => True

@[simp] theorem answersWf_error (e : DecodeError) : AnswersWf (.error e) := trivial

@[simp] theorem answersWf_implied (i : Instr) (r : List Byte) : AnswersWf (implied i r) ↔ i.wf = true := .rfl

@[simp] theorem answersWf_operand (n : Nat) (k : List Byte → Instr) (r : List Byte) :
    AnswersWf (operand n k r) ↔ (n ≤ r.length → (k (r.take n)).wf = true) := by
  by_cases hn : n ≤ r.length <;> simp [operand, hn, AnswersWf]

/-- COP's format takes exactly the bytes of `size` words. -/
@[simp] theorem answersWf_copFmt (r : List Byte) : AnswersWf (copFmt r) := by
  unfold copFmt
  split
  · rw [answersWf_operand]
    intro hn
    exact beq_iff_eq.mpr (wordsOfBytes_length endian _ _ (List.length_take_of_le hn))
  · trivial

/-- Every format but COP's builds instructions that are well-formed whatever their operand bytes. -/
theorem answersWf_decodeOp (b : Byte) (r : List Byte) : AnswersWf (decodeOp b r) := by
  unfold decodeOp
  split <;> simp [absFmt, relFmt, imm8Fmt, imm16Fmt, imm32Fmt, imm64Fmt, Instr.wf]

theorem decode_wf (bs : List Byte) (i : Instr) (r : List Byte) (h : decode bs = .ok (i, r)) : i.wf = true := by
  cases bs with
  | nil => cases h
  | cons b bs =>
    have hb := answersWf_decodeOp b bs
    rwa [show decodeOp b bs = .ok (i, r) from h] at hb

end Sys2Proof.Machine

namespace Sys2Proof.Safety

open Sys2Proof.Machine

/-! ### What keeps the invariant -/

theorem Inv.of_same {s t : State} (h : Inv s) (hm : t.mem = s.mem) (hz : t.z = s.z) (hc : t.cop = s.cop) : Inv t := by
  unfold Inv
  rwa [hm, hz, hc]

theorem Inv.of_write {s t : State} {a : QWord} {n v : Nat} {o : Endian} (h : Inv s) (hm : t.mem = s.mem.write a n v o) (hz : t.z = s.z)
    (hc : t.cop = s.cop) : Inv t := by
  obtain ⟨hmem, hzlen, hcop⟩ := h
  exact ⟨hm ▸ Memory.wf_write _ a n v o hmem, hz ▸ hzlen, hc ▸ hcop⟩

theorem Inv.setA {s : State} (h : Inv s) (v : QWord) : Inv (s.setA v) := h.of_same rfl rfl rfl

theorem Inv.setX {s : State} (h : Inv s) (v : QWord) : Inv (s.setX v) := h.of_same rfl rfl rfl

theorem Inv.setY {s : State} (h : Inv s) (v : QWord) : Inv (s.setY v) := h.of_same rfl rfl rfl

theorem Inv.setSP {s : State} (h : Inv s) (v : QWord) : Inv (s.setSP v) := h.of_same rfl rfl rfl

theorem Inv.setD {s : State} (h : Inv s) (v : QWord) : Inv (s.setD v) := h.of_same rfl rfl rfl

theorem Inv.setP {s : State} (h : Inv s) (v : Byte) : Inv (s.setP v) := h.of_same rfl rfl rfl

theorem Inv.setPC {s : State} (h : Inv s) (v : QWord) : Inv (s.setPC v) := h.of_same rfl rfl rfl

theorem Inv.setStop {s : State} (h : Inv s) (v : StopReason) : Inv (s.setStop v) := h.of_same rfl rfl rfl

theorem Inv.setFlag {s : State} (h : Inv s) (f : Flag) (v : Bool) : Inv (s.setFlag f v) := h.of_same rfl rfl rfl

theorem Inv.setNZ64 {s : State} (h : Inv s) (v : QWord) : Inv (s.setNZ64 v) := h.of_same rfl rfl rfl

theorem Inv.setNZ16 {s : State} (h : Inv s) (v : Word) : Inv (s.setNZ16 v) := h.of_same rfl rfl rfl

theorem Inv.charge {s : State} (h : Inv s) (n : Nat) : Inv (s.charge n) := h.of_same rfl rfl rfl

theorem Inv.write8 {s : State} (h : Inv s) (a : QWord) (v : Byte) : Inv (s.write8 a v) := h.of_write rfl rfl rfl

theorem Inv.write16 {s : State} (h : Inv s) (a : QWord) (v : Word) (o : Endian) : Inv (s.write16 a v o) := h.of_write rfl rfl rfl

theorem Inv.write64 {s : State} (h : Inv s) (a v : QWord) (o : Endian) : Inv (s.write64 a v o) := h.of_write rfl rfl rfl

theorem Inv.push8 {s : State} (h : Inv s) (v : Byte) : Inv (s.push8 v) := (h.write8 _ v).setSP _

theorem Inv.push16 {s : State} (h : Inv s) (v : Word) (o : Endian) : Inv (s.push16 v o) := (h.write16 _ v o).setSP _

theorem Inv.enterTrap {s : State} (h : Inv s) (o : Endian) : Inv (s.enterTrap o) :=
  ((h.push16 _ o).push8 s.p).of_same rfl rfl rfl

theorem Inv.enterCop {s : State} (h : Inv s) (ea : QWord) (c : CopCapture) (hc : c.words.length = c.size.toNat) : Inv (s.enterCop ea c) := by
  obtain ⟨hmem, hzlen, -⟩ := h
  refine ⟨hmem, hzlen, fun c' hc' => ?_⟩
  cases hc'
  exact hc

theorem Inv.doBranch {s : State} (h : Inv s) (cond : Bool) (ea : QWord) : Inv (doBranch cond ea s) := by
  cases cond
  · exact h.charge 2
  · exact (h.setPC _).charge 3

theorem Inv.blockStep {s : State} (h : Inv s) : Inv (blockStep s) := by
  unfold Machine.blockStep
  dsimp only
  split <;> exact h.of_same rfl rfl rfl

/-- A well-formed instruction keeps the invariant: a COP captures its own operand, the storing instructions store through `write` and the
pushes, and every other one leaves memory, zero-cache and capture alone. -/
theorem exec_completes_inv (i : Instr) (s : State) (hwf : i.wf = true) (hs : Inv s) : Completes i s Inv := by
  have hr : ∀ m, Inv (s.fetched.resolved m) := fun _ => hs.of_same rfl rfl rfl
  cases i with
  | cop size op words => exact ⟨_, rfl, ((hr .imm8).enterCop _ ⟨size, op, words⟩ (beq_iff_eq.mp hwf)).charge _⟩
  | brk => exact ⟨_, rfl, ((hr .impl).enterTrap endian).charge 8⟩
  | mvn | mvp => exact ⟨_, rfl, (hr .impl).blockStep.charge _⟩
  | bcc | bcs | beq | bne | bmi | bpl | bvc | bvs | bra | brl => exact ⟨_, rfl, (hr .rel).doBranch _ _⟩
  | jsrAbs | jsrXInd => exact ⟨_, rfl, (((hr _).push16 _ endian).setPC _).charge _⟩
  | pha | phx | phy | peaAbs | peiInd | perRel => exact ⟨_, rfl, ((hr _).push16 _ endian).charge _⟩
  | php => exact ⟨_, rfl, ((hr .impl).push8 _).charge _⟩
  | trbAbs | tsbAbs => exact ⟨_, rfl, (((hr .abs).setFlag _ _).write64 _ _ endian).charge _⟩
  | aslAbs | aslAbsX | lsrAbs | lsrAbsX | rolAbs | rolAbsX | rorAbs | rorAbsX =>
    exact ⟨_, rfl, ((((hr _).setFlag _ _).write16 _ _ endian).setNZ16 _).charge _⟩
  | adcImm8 | adcImm16 | adcImm32 | adcImm64 | adcAbs | adcAbsX | adcAbsY | adcSR | adcSRIY =>
    exact ⟨_, rfl, (((((hr _).setFlag _ _).setFlag _ _).setA _).setNZ64 _).charge _⟩
  | jmpAbs | jmpInd | jmpXInd => exact ⟨_, rfl, ((hr _).setPC _).charge _⟩
  | rts => exact ⟨_, rfl, (((hr .impl).setSP _).setPC _).charge _⟩
  | stp | wai => exact ⟨_, rfl, ((hr .impl).setStop _).charge _⟩
  | txa | tya | tsa | tba | tdc => exact ⟨_, rfl, (((hr .impl).setA _).setNZ64 _).charge _⟩
  | tax | tyx | tsx => exact ⟨_, rfl, (((hr .impl).setX _).setNZ64 _).charge _⟩
  | tay | txy => exact ⟨_, rfl, (((hr .impl).setY _).setNZ64 _).charge _⟩
  | tas | txs => exact ⟨_, rfl, ((hr .impl).setSP _).charge _⟩
  | tcd => exact ⟨_, rfl, ((hr .impl).setD _).charge _⟩
  | pla => exact ⟨_, rfl, ((((hr .impl).setSP _).setA _).setNZ16 _).charge _⟩
  | plx => exact ⟨_, rfl, ((((hr .impl).setSP _).setX _).setNZ16 _).charge _⟩
  | ply => exact ⟨_, rfl, ((((hr .impl).setSP _).setY _).setNZ16 _).charge _⟩
  | plp => exact ⟨_, rfl, (((hr .impl).setSP _).setP _).charge _⟩
  | repImm8 | sepImm8 => exact ⟨_, rfl, ((hr .imm8).setP _).charge _⟩
  | aslA | lsrA | rolA | rorA => exact ⟨_, rfl, ((((hr .acc).setFlag _ _).setA _).setNZ16 _).charge _⟩

/-- Settles O9: a stopped core stands still, and a running one executes a well-formed instruction. -/
theorem stepKeepsTheInvariant : Obligations.StepKeepsTheInvariant := by
  unfold Obligations.StepKeepsTheInvariant
  intro s t hs h
  obtain ⟨-, rfl⟩ | ⟨-, i, r, hi, he⟩ := step_cases s t h
  · exact hs
  · obtain ⟨t', ht', hinv⟩ := exec_completes_inv i s (decode_wf _ i r hi) hs
    cases he.symm.trans ht'
    exact hinv

/-- Settles O51, from the values of the halves and of their join. -/
theorem splitJoinSwapLaws : Obligations.SplitJoinSwapLaws :=
  fun _ v l u => ⟨lo_toNat v, hi_toNat v, join_toNat l u, rfl, join_lo_hi v, swap_swap v⟩

/-! ### Reset (10_state.md R26) -/

theorem inv_ofReset (rs : ResetState) (t : Bool) (m : Memory) (hz : rs.z.length = 128) (hm : m.wf = true) : Inv (State.ofReset rs t m) :=
  ⟨hm, hz, nofun⟩

/-- Settles O10: reset empties the capture and takes the zero-cache of `RESET_STATE`. -/
theorem resetMeetsTheInvariant : Obligations.ResetMeetsTheInvariant :=
  ⟨inv_ofReset .zero false [] rfl rfl, fun rs t s hz hm => (inv_ofReset rs t s.mem hz hm).of_same rfl rfl rfl⟩

/-- No byte is listed in the memory of `State.reset` (log 3). -/
theorem read8_reset (k : QWord) : State.reset.read8 k = 0 := by
  rw [State.read8_eq_get]
  rfl

/-- Settles O53, field by field of the record `reset` builds. -/
theorem resetLeavesTheTabledState : Obligations.ResetLeavesTheTabledState := by
  unfold Obligations.ResetLeavesTheTabledState
  refine ⟨fun rs tr s => ?_, rfl, rfl, rfl, rfl, fun r => ?_, rfl, rfl, rfl, rfl, rfl, rfl, read8_reset⟩
  · exact ⟨rfl, rfl, rfl, rfl, rfl, rfl, rfl, rfl, rfl, rfl, rfl, rfl, rfl, rfl, rfl, fun _ => rfl⟩
  · cases r <;> rfl

end Sys2Proof.Safety
end

section
/-! Proofs for 20_memory.md: in which order the bytes of a wide access lie (R45 to R47). The bytes read, the bytes stored and the worth of a
run of bytes are all brought to one form, a function mapped over the offsets `0` to `n - 1`. -/

namespace Sys2Proof.Machine

/-! ### The bytes of a value and the value of bytes, by offset (20_memory.md R45) -/

theorem reverse_map_range {α : Type} (f : Nat → α) (n : Nat) :
    ((List.range n).map f).reverse = (List.range n).map fun i => f (n - 1 - i) := by
  apply List.ext_getElem <;> simp

theorem leBytes_eq_map (n v : Nat) : leBytes n v = (List.range n).map fun i => BitVec.ofNat 8 (v / 256 ^ i) := by
  induction n generalizing v with
  | zero => rfl
  | succ n ih =>
    rw [leBytes, ih, List.range_succ_eq_map]
    simp [Nat.div_div_eq_div_mul, Nat.pow_succ']

/-- Byte `i` of a value in a byte order is the one worth `256 ^ place`. -/
theorem toBytes_eq_map (o : Endian) (n v : Nat) :
    toBytes o n v = (List.range n).map fun i => BitVec.ofNat 8 (v / 256 ^ Safety.place o n i) := by
  cases o with
  | little => exact leBytes_eq_map n v
  | big =>
    rw [toBytes, leBytes_eq_map, reverse_map_range]
    rfl

theorem leNat_map_range (f : Nat → Byte) (n : Nat) :
    leNat ((List.range n).map f) = ((List.range n).map fun i => (f i).toNat * 256 ^ i).sum := by
  induction n generalizing f with
  | zero => rfl
  | succ n ih =>
    simp only [List.range_succ_eq_map, List.map_cons, List.map_map, leNat, ih, List.sum_cons, ← List.sum_map_mul_left]
    simp [Function.comp_def, Nat.pow_succ', Nat.mul_left_comm]

/-- The number that bytes stand for is their sum, each worth `256 ^ place`. -/
theorem ofBytes_map_range (o : Endian) (f : Nat → Byte) (n : Nat) :
    ofBytes o ((List.range n).map f) = ((List.range n).map fun i => (f i).toNat * 256 ^ Safety.place o n i).sum := by
  cases o with
  | little => exact leNat_map_range f n
  | big =>
    rw [ofBytes, reverse_map_range, leNat_map_range, ← List.sum_reverse, reverse_map_range]
    congr 1
    apply List.map_congr_left
    intro i hi
    have hback : n - 1 - (n - 1 - i) = i := by
      have := List.mem_range.mp hi
      omega
    rw [hback]
    rfl

/-! ### Wide accesses, by offset (20_memory.md R46, R47) -/

/-- A run of bytes, at any address and wrapping, is read byte by byte. -/
theorem State.readBytes_eq_map (s : State) (n : Nat) (a : QWord) :
    s.mem.readBytes n a = (List.range n).map fun i => s.read8 (a + BitVec.ofNat 64 i) := by
  induction n with
  | zero => rfl
  | succ n ih =>
    rw [Memory.readBytes_add, ih, List.range_succ, List.map_append]
    simp [Memory.readBytes, State.read8_eq_get]

theorem State.read_eq_bytesWorth (s : State) (a : QWord) (n : Nat) (o : Endian) : s.mem.read a n o = Safety.bytesWorth s a n o := by
  rw [Memory.read, State.readBytes_eq_map, ofBytes_map_range]
  rfl

/-- The value of a read of `n` bytes is what they are worth: nothing is lost at its width. -/
theorem State.toNat_ofNat_read (s : State) (a : QWord) (n : Nat) (o : Endian) :
    (BitVec.ofNat (8 * n) (s.mem.read a n o)).toNat = Safety.bytesWorth s a n o := by
  have hlt : s.mem.read a n o < 2 ^ (8 * n) := by
    simpa [Memory.read, Nat.pow_mul] using ofBytes_lt o (s.mem.readBytes n a)
  rw [BitVec.toNat_ofNat, Nat.mod_eq_of_lt hlt, s.read_eq_bytesWorth]

/-- Byte `i` of a stored value lies at the address plus `i` and is the one worth `256 ^ place`. -/
theorem State.read8_setMem_write_inside (s : State) (a : QWord) (n v i : Nat) (o : Endian) (hn : n ≤ 2 ^ 64) (hi : i < n) :
    ((s.setMem (s.mem.write a n v o)).read8 (a + BitVec.ofNat 64 i)).toNat = v / 256 ^ Safety.place o n i % 256 := by
  have hback : (s.mem.write a n v o).readBytes n a = toBytes o n v := by
    simpa [Memory.write] using Memory.readBytes_writeBytes s.mem a (toBytes o n v) (by simpa using hn)
  have hbytes := ((s.setMem (s.mem.write a n v o)).readBytes_eq_map n a).symm.trans (hback.trans (toBytes_eq_map o n v))
  rw [List.map_inj_left.mp hbytes i (List.mem_range.mpr hi), BitVec.toNat_ofNat]

end Sys2Proof.Machine

namespace Sys2Proof.Safety

open Sys2Proof.Machine

/-- Settles O50: a store is read back byte by byte, each byte the one of its place, and a read is the worth of the bytes it covers. -/
theorem wideAccessesLieInTheFacadesByteOrder : Obligations.WideAccessesLieInTheFacadesByteOrder := by
  unfold Obligations.WideAccessesLieInTheFacadesByteOrder
  refine ⟨fun o s a => ⟨fun v => ⟨?_, ?_⟩, fun v => ⟨?_, ?_⟩, ?_, ?_, ?_⟩, rfl⟩
  · exact fun k hk => s.read8_write16_outside a k v o hk
  · exact fun i hi => s.read8_setMem_write_inside a 2 v.toNat i o (by decide) hi
  · exact fun k hk => s.read8_write64_outside a k v o hk
  · exact fun i hi => s.read8_setMem_write_inside a 8 v.toNat i o (by decide) hi
  · exact s.toNat_ofNat_read a 2 o
  · exact s.toNat_ofNat_read a 4 o
  · exact s.toNat_ofNat_read a 8 o

end Sys2Proof.Safety
end

section
/-! Proofs for 30_encoding.md: what each operand format accepts (R61, R64), the round trip of the decoder and the encoder (R60), the bytes
without a row (R68), and the machine over every opcode map (R66). -/

namespace Sys2Proof

/-! ### A value and its bytes (20_memory.md R45) -/

theorem ofNat_ofBytes_toBytes (e : Endian) (n : Nat) (v : BitVec (8 * n)) :
    BitVec.ofNat (8 * n) (ofBytes e (toBytes e n v.toNat)) = v := by
  have hv : v.toNat < 256 ^ n := by simpa [Nat.pow_mul] using v.isLt
  rw [ofBytes_toBytes, Nat.mod_eq_of_lt hv, BitVec.ofNat_toNat, BitVec.setWidth_eq]

theorem toBytes_toNat_ofNat_ofBytes (e : Endian) {n : Nat} {bs : List Byte} (h : bs.length = n) :
    toBytes e n (BitVec.ofNat (8 * n) (ofBytes e bs)).toNat = bs := by
  subst h
  have hlt : ofBytes e bs < 2 ^ (8 * bs.length) := by simpa [Nat.pow_mul] using ofBytes_lt e bs
  rw [BitVec.toNat_ofNat, Nat.mod_eq_of_lt hlt, toBytes_ofBytes]

/-- The runs of `n` bytes are the values of `8 * n` bits, in either byte order. -/
theorem exists_bytes_iff_exists_value (e : Endian) (n : Nat) (p : List Byte → BitVec (8 * n) → Prop) :
    (∃ bs : List Byte, bs.length = n ∧ p bs (BitVec.ofNat (8 * n) (ofBytes e bs))) ↔ ∃ v, p (toBytes e n v.toNat) v := by
  constructor
  · rintro ⟨bs, hlen, h⟩
    exact ⟨BitVec.ofNat _ (ofBytes e bs), by rwa [toBytes_toNat_ofNat_ofBytes e hlen]⟩
  · rintro ⟨v, h⟩
    exact ⟨toBytes e n v.toNat, toBytes_length e n _, by rwa [ofNat_ofBytes_toBytes]⟩

/-- The bytes of the words in an even run of bytes are those bytes. -/
theorem bytesOfWords_wordsOfBytes (e : Endian) (n : Nat) (bs : List Byte) (h : bs.length = 2 * n) :
    bytesOfWords e (wordsOfBytes e bs) = bs := by
  induction n generalizing bs with
  | zero =>
    obtain rfl := List.length_eq_zero_iff.mp h
    rfl
  | succ n ih =>
    match bs, h with
    | b0 :: b1 :: r, h =>
      have hpair : toBytes e 2 (BitVec.ofNat 16 (ofBytes e [b0, b1])).toNat = [b0, b1] :=
        toBytes_toNat_ofNat_ofBytes e rfl
      rw [wordsOfBytes, bytesOfWords, hpair, ih r (by simpa [Nat.mul_succ] using h)]
      rfl

/-! ### What each format accepts (30_encoding.md R61, R64) -/

theorem operand_eq_ok (n : Nat) (k : List Byte → Instr) (bs : List Byte) (i : Instr) (r : List Byte) :
    operand n k bs = .ok (i, r) ↔ ∃ os : List Byte, os.length = n ∧ i = k os ∧ bs = os ++ r := by
  constructor
  · intro h
    unfold operand at h
    split at h
    · next hn =>
      cases h
      exact ⟨bs.take n, List.length_take_of_le hn, rfl, (List.take_append_drop n bs).symm⟩
    · cases h
  · rintro ⟨os, rfl, rfl, rfl⟩
    simp [operand]

theorem implied_eq_ok (j : Instr) (bs : List Byte) (i : Instr) (r : List Byte) :
    implied j bs = .ok (i, r) ↔ i = j ∧ bs = r := by
  simp [implied, eq_comm]

theorem imm8Fmt_eq_ok (k : Byte → Instr) (bs : List Byte) (i : Instr) (r : List Byte) :
    imm8Fmt k bs = .ok (i, r) ↔ ∃ v, i = k v ∧ bs = toBytes endian 1 v.toNat ++ r :=
  (operand_eq_ok 1 _ bs i r).trans (exists_bytes_iff_exists_value endian 1 fun os v => i = k v ∧ bs = os ++ r)

theorem imm16Fmt_eq_ok (k : Word → Instr) (bs : List Byte) (i : Instr) (r : List Byte) :
    imm16Fmt k bs = .ok (i, r) ↔ ∃ v, i = k v ∧ bs = toBytes endian 2 v.toNat ++ r :=
  (operand_eq_ok 2 _ bs i r).trans (exists_bytes_iff_exists_value endian 2 fun os v => i = k v ∧ bs = os ++ r)

theorem relFmt_eq_ok (k : Word → Instr) (bs : List Byte) (i : Instr) (r : List Byte) :
    relFmt k bs = .ok (i, r) ↔ ∃ v, i = k v ∧ bs = toBytes endian 2 v.toNat ++ r :=
  imm16Fmt_eq_ok k bs i r

theorem imm32Fmt_eq_ok (k : DWord → Instr) (bs : List Byte) (i : Instr) (r : List Byte) :
    imm32Fmt k bs = .ok (i, r) ↔ ∃ v, i = k v ∧ bs = toBytes endian 4 v.toNat ++ r :=
  (operand_eq_ok 4 _ bs i r).trans (exists_bytes_iff_exists_value endian 4 fun os v => i = k v ∧ bs = os ++ r)

theorem absFmt_eq_ok (k : Field → Instr) (bs : List Byte) (i : Instr) (r : List Byte) :
    absFmt k bs = .ok (i, r) ↔ ∃ f, i = k f ∧ bs = leBytes 16 f.toNat ++ r :=
  (operand_eq_ok 16 _ bs i r).trans (exists_bytes_iff_exists_value .little 16 fun os f => i = k f ∧ bs = os ++ r)

theorem imm64Fmt_eq_ok (k : QWord → QWord → Instr) (bs : List Byte) (i : Instr) (r : List Byte) :
    imm64Fmt k bs = .ok (i, r) ↔ ∃ v x, i = k v x ∧ bs = toBytes endian 8 v.toNat ++ leBytes 8 x.toNat ++ r := by
  refine (operand_eq_ok 16 _ bs i r).trans ?_
  constructor
  · rintro ⟨os, hlen, rfl, rfl⟩
    have hv : toBytes endian 8 (BitVec.ofNat 64 (ofBytes endian (os.take 8))).toNat = os.take 8 :=
      toBytes_toNat_ofNat_ofBytes endian (by simp [hlen])
    have hx : leBytes 8 (BitVec.ofNat 64 (leNat (os.drop 8))).toNat = os.drop 8 :=
      toBytes_toNat_ofNat_ofBytes .little (n := 8) (bs := os.drop 8) (by simp [hlen])
    exact ⟨_, _, rfl, by rw [hv, hx, List.take_append_drop]⟩
  · rintro ⟨v, x, rfl, rfl⟩
    have hv : BitVec.ofNat 64 (ofBytes endian (toBytes endian 8 v.toNat)) = v := ofNat_ofBytes_toBytes endian 8 v
    have hx : BitVec.ofNat 64 (leNat (leBytes 8 x.toNat)) = x := ofNat_ofBytes_toBytes .little 8 x
    refine ⟨toBytes endian 8 v.toNat ++ leBytes 8 x.toNat, by simp, ?_, rfl⟩
    rw [List.take_left' (toBytes_length endian 8 _), List.drop_left' (toBytes_length endian 8 _), hv, hx]

theorem copFmt_eq_ok (bs : List Byte) (i : Instr) (r : List Byte) :
    copFmt bs = .ok (i, r) ↔
      ∃ size op words, words.length = size.toNat ∧ i = .cop size op words ∧ bs = size :: op :: (bytesOfWords endian words ++ r) := by
  constructor
  · intro h
    unfold copFmt at h
    split at h
    · next size op bs =>
      obtain ⟨os, hlen, rfl, rfl⟩ := (operand_eq_ok _ _ bs i r).mp h
      have hos := bytesOfWords_wordsOfBytes endian _ os hlen
      exact ⟨size, op, _, Machine.wordsOfBytes_length endian _ os hlen, rfl, by rw [hos]⟩
    · cases h
  · rintro ⟨size, op, words, hlen, rfl, rfl⟩
    rw [copFmt, operand_eq_ok]
    exact ⟨bytesOfWords endian words, by simp [hlen], by rw [wordsOfBytes_bytesOfWords], rfl⟩

/-! ### The round trip (30_encoding.md R60) -/

/-- Every instruction is read back by the format of its row, from the values of its operands; only COP needs its well-formedness. -/
theorem decode_encode_append (i : Instr) (r : List Byte) (h : i.wf = true) : decode (encode i ++ r) = .ok (i, r) := by
  cases i with
  | cop size op words => exact (copFmt_eq_ok _ _ r).mpr ⟨size, op, words, beq_iff_eq.mp h, rfl, rfl⟩
  | adcImm8 v | adcSR v | adcSRIY v | repImm8 v | sepImm8 v => exact (imm8Fmt_eq_ok _ _ _ r).mpr ⟨v, rfl, rfl⟩
  | adcImm16 v => exact (imm16Fmt_eq_ok _ _ _ r).mpr ⟨v, rfl, rfl⟩
  | bpl v | bmi v | bvc v | perRel v | bvs v | bra v | brl v | bcc v | bcs v | bne v | beq v =>
    exact (relFmt_eq_ok _ _ _ r).mpr ⟨v, rfl, rfl⟩
  | adcImm32 v => exact (imm32Fmt_eq_ok _ _ _ r).mpr ⟨v, rfl, rfl⟩
  | adcImm64 v x | jmpInd v x | peiInd v x => exact (imm64Fmt_eq_ok _ _ _ r).mpr ⟨v, x, rfl, rfl⟩
  | tsbAbs f | aslAbs f | trbAbs f | aslAbsX f | jsrAbs f | rolAbs f | rolAbsX f | jmpAbs f | lsrAbs f | lsrAbsX f | adcAbs f
  | rorAbs f | adcAbsY f | jmpXInd f | adcAbsX f | rorAbsX f | peaAbs f | jsrXInd f =>
    exact (absFmt_eq_ok _ _ _ r).mpr ⟨f, rfl, rfl⟩
  | _ => rfl

/-- Each format accepts just the operand bytes of the instruction it builds. -/
theorem encode_append_of_decodeOp (b : Byte) (bs : List Byte) (i : Instr) (r : List Byte) :
    decodeOp b bs = .ok (i, r) → encode i ++ r = b :: bs := by
  unfold decodeOp
  split
  case h_72 => nofun
  all_goals
    simp only [implied_eq_ok, imm8Fmt_eq_ok, imm16Fmt_eq_ok, relFmt_eq_ok, imm32Fmt_eq_ok, imm64Fmt_eq_ok, absFmt_eq_ok, copFmt_eq_ok,
      forall_exists_index, and_imp]
    intros
    subst_vars
    rfl

/-! ### The bytes without a row (30_encoding.md R68) -/

theorem operand_ne_unassigned (n : Nat) (k : List Byte → Instr) (bs : List Byte) (b : Byte) :
    operand n k bs ≠ .error (.unassigned b) := by
  unfold operand
  split <;> nofun

theorem implied_ne_unassigned (i : Instr) (bs : List Byte) (b : Byte) : implied i bs ≠ .error (.unassigned b) := nofun

theorem copFmt_ne_unassigned (bs : List Byte) (b : Byte) : copFmt bs ≠ .error (.unassigned b) := by
  unfold copFmt
  split
  · exact operand_ne_unassigned _ _ _ b
  · nofun

/-- No format rejects a byte as unassigned, and dispatch has an arm for the byte of every row. -/
theorem decodeOp_eq_unassigned (b : Byte) (bs : List Byte) :
    decodeOp b bs = .error (.unassigned b) ↔ b ∉ opcodeMap.map Prod.fst := by
  unfold decodeOp
  split
  case h_72 => exact iff_of_true rfl (by simp_all [opcodeMap])
  all_goals
    refine iff_of_false ?_ (not_not_intro (by decide))
    simp only [absFmt, relFmt, imm8Fmt, imm16Fmt, imm32Fmt, imm64Fmt, operand_ne_unassigned, implied_ne_unassigned, copFmt_ne_unassigned,
      not_false_eq_true]

/-- A list of bytes without repetition leaves out the rest of the 256. -/
theorem length_filter_notMem (l : List Byte) (hl : l.Nodup) :
    ((List.range 256).filter fun n => decide (BitVec.ofNat 8 n ∉ l)).length = 256 - l.length := by
  have hperm : ((List.range 256).filter fun n => decide (BitVec.ofNat 8 n ∈ l)).Perm (l.map BitVec.toNat) := by
    refine (List.perm_ext_iff_of_nodup (List.nodup_range.filter _) (hl.map fun _ _ => BitVec.eq_of_toNat_eq)).mpr fun n => ?_
    simp only [List.mem_filter, List.mem_range, decide_eq_true_eq, List.mem_map]
    constructor
    · rintro ⟨hn, hmem⟩
      exact ⟨_, hmem, Nat.mod_eq_of_lt hn⟩
    · rintro ⟨b, hmem, rfl⟩
      exact ⟨b.isLt, by simpa using hmem⟩
  have hsplit := List.length_eq_length_filter_add (l := List.range 256) fun n => decide (BitVec.ofNat 8 n ∈ l)
  have hlen := hperm.length_eq
  simp only [List.length_range, List.length_map, ← decide_not] at hsplit hlen
  omega

theorem nodup_opcodeMap_bytes : (opcodeMap.map Prod.fst).Nodup := by decide

end Sys2Proof

namespace Sys2Proof.Machine

/-! ### A step of the facade machine, case by case (30_encoding.md R66, 40_addressing_modes.md R80) -/

section
variable {order : Endian} {base : RelBase} {map : OpcodeMap} {s : State}

theorem facadeStep_of_stopped (h : s.stop ≠ .running) : facadeStep order base map s = .next s := if_pos h

theorem facadeStep_of_illFormed (h : s.stop = .running) (hmap : map.wf = false) :
    facadeStep order base map s = .refused .illFormedOpcodeMap := by
  simp [facadeStep, h, hmap]

theorem facadeStep_of_lookup_some {e : Entry} (h : s.stop = .running) (hmap : map.wf = true)
    (he : map.lookup (s.read8 s.pc) = some e) : facadeStep order base map s = .next (runEntry order base e s) := by
  simp [facadeStep, h, hmap, he]

theorem facadeStep_of_lookup_none (h : s.stop = .running) (hmap : map.wf = true) (he : map.lookup (s.read8 s.pc) = none) :
    facadeStep order base map s = .fault (.illegalOpcode (s.read8 s.pc) s.pc) := by
  simp [facadeStep, h, hmap, he]

end

end Sys2Proof.Machine

namespace Sys2Proof.Safety

open Sys2Proof.Machine

/-- Settles O1, format by format. -/
theorem decodeOfEncodeIsTheInstruction : Obligations.DecodeOfEncodeIsTheInstruction := decode_encode_append

/-- Settles O2, from what each format accepts. -/
theorem everyDecodedByteStringIsAnEncoding : Obligations.EveryDecodedByteStringIsAnEncoding := by
  unfold Obligations.EveryDecodedByteStringIsAnEncoding
  intro bs i r h
  refine ⟨decode_wf bs i r h, ?_⟩
  cases bs with
  | nil => cases h
  | cons b bs => exact encode_append_of_decodeOp b bs i r h

/-- Settles O3: the 71 rows of the map name 71 bytes, which leaves 185. -/
theorem unassignedBytesAreExactlyTheUnlistedOnes : Obligations.UnassignedBytesAreExactlyTheUnlistedOnes := by
  unfold Obligations.UnassignedBytesAreExactlyTheUnlistedOnes
  refine ⟨decodeOp_eq_unassigned, ?_⟩
  simp only [decode, decodeOp_eq_unassigned]
  exact length_filter_notMem _ nodup_opcodeMap_bytes

/-- Settles O52: a well-formed map has a row for the byte fetched, which runs, or has none, which faults. -/
theorem everyWellFormedOpcodeMapHasAMeaning : Obligations.EveryWellFormedOpcodeMapHasAMeaning := by
  unfold Obligations.EveryWellFormedOpcodeMapHasAMeaning
  refine fun order base map s => ⟨fun hmap => ?_, fun hmap hrun => facadeStep_of_illFormed hrun hmap⟩
  by_cases hrun : s.stop = .running
  · cases he : map.lookup (s.read8 s.pc) with
    | some e => exact .inl ⟨_, facadeStep_of_lookup_some hrun hmap he⟩
    | none =>
      have hunlisted : ∀ e, (s.read8 s.pc, e) ∉ map := fun e hmem => by simpa using List.lookup_eq_none_iff.mp he _ hmem
      exact .inr ⟨hrun, hunlisted, facadeStep_of_lookup_none hrun hmap he⟩
  · exact .inl ⟨s, facadeStep_of_stopped hrun⟩

end Sys2Proof.Safety
end

section
/-! Proofs for 40_addressing_modes.md: the fetch takes exactly the bytes of the instruction at `pc` (R80), and what one instruction charges
(R81). -/

namespace Sys2Proof.Machine

/-! ### The fetch of an encoding (40_addressing_modes.md R80, 30_encoding.md R64, R65) -/

/-- The mode fixes the length of every instruction but COP, whose size byte is its first operand byte. -/
theorem lengthFrom_opcode (i : Instr) (b1 : Byte) (hwf : i.wf = true) (hb1 : ∀ size op words, i = .cop size op words → b1 = size) :
    lengthFrom i.opcode b1 = (encode i).length := by
  cases i with
  | cop size op words =>
    obtain rfl : b1 = size := hb1 _ _ _ rfl
    have hwords : words.length = b1.toNat := beq_iff_eq.mp hwf
    have hlength : lengthFrom (Instr.cop b1 op words).opcode b1 = 3 + 2 * b1.toNat := rfl
    simp only [hlength, encode, Instr.operands, List.length_cons, bytesOfWords_length, hwords]
    omega
  | _ => rfl

/-- The fetch takes the whole encoding that stands at `pc` and no byte after it. -/
theorem fetchBytes_eq_encode {m : Memory} {pc : QWord} {i : Instr} (hwf : i.wf = true)
    (hbytes : m.readBytes (encode i).length pc = encode i) : fetchBytes m pc = encode i := by
  have hopcode : m.get pc.toNat = i.opcode := (List.cons.inj hbytes).1
  have hsize : ∀ size op words, i = .cop size op words → m.get (pc + 1).toNat = size := by
    rintro size op words rfl
    exact (List.cons.inj (List.cons.inj hbytes).2).1
  rw [fetchBytes, fetchLength, hopcode, lengthFrom_opcode i _ hwf hsize, hbytes]

theorem fetchInstr_of_readBytes_eq_encode {m : Memory} {pc : QWord} {i : Instr} (hwf : i.wf = true)
    (hbytes : m.readBytes (encode i).length pc = encode i) : fetchInstr m pc = .ok (i, []) := by
  rw [fetchInstr, fetchBytes_eq_encode hwf hbytes, ← List.append_nil (encode i)]
  exact decode_encode_append i [] hwf

/-- A running core's step executes the instruction the fetch answers. -/
theorem step_of_fetchInstr_ok {s : State} {i : Instr} {r : List Byte} (hrun : s.stop = .running)
    (hfetch : fetchInstr s.mem s.pc = .ok (i, r)) : step s = exec i s := by
  simp [step, hrun, hfetch]

/-! ### The cycles of an instruction (40_addressing_modes.md R81) -/

theorem blockStep_cycles (s : State) : (blockStep s).cycles = s.cycles := by
  unfold blockStep
  dsimp only
  split <;> rfl

theorem doBranch_cycles (c : Bool) (ea : QWord) (s : State) :
    (doBranch c ea s).cycles = s.cycles + BitVec.ofNat 64 (if c then 3 else 2) := by
  cases c <;> rfl

theorem doBranch_not_cycles (c : Bool) (ea : QWord) (s : State) :
    (doBranch (!c) ea s).cycles = s.cycles + BitVec.ofNat 64 (if c then 2 else 3) := by
  cases c <;> rfl

end Sys2Proof.Machine

namespace Sys2Proof.Safety

open Sys2Proof.Machine

/-- Every instruction has a row, and past the fetch and the resolver of the row's mode its handler charges its own cycles: a branch by its
condition, every other one a fixed number at its end. -/
theorem exec_charges_handlerCost (i : Instr) (s : State) :
    ∃ e t, opcodeMap.lookup i.opcode = some e ∧ exec i s = .next t ∧
      t.cycles = (s.fetched.resolved e.mode).cycles + BitVec.ofNat 64 (handlerCost e.handler s) := by
  cases i with
  | bcs | beq | bmi | bvs | bra | brl => exact ⟨_, _, rfl, rfl, doBranch_cycles _ _ _⟩
  | bcc | bne | bpl | bvc => exact ⟨_, _, rfl, rfl, doBranch_not_cycles _ _ _⟩
  | mvn | mvp => exact ⟨_, _, rfl, rfl, congrArg (· + _) (blockStep_cycles _)⟩
  | _ => exact ⟨_, _, rfl, rfl, rfl⟩

/-- The fetch's, the mode's and the handler's cycles in one sum. -/
theorem charged_iff_cycles_resolved (m : Mode) (n : Nat) (s t : State) :
    Charged (baseCycles m + n) s t ↔ t.cycles = (s.fetched.resolved m).cycles + BitVec.ofNat 64 n := by
  simp only [Charged, State.resolved_cycles, State.fetched_cycles, BitVec.ofNat_add, BitVec.add_assoc]

/-- Settles O19: the row and the next state are the ones for which the three charges add up. -/
theorem cyclesAreFetchPlusModePlusHandler : Obligations.CyclesAreFetchPlusModePlusHandler := by
  unfold Obligations.CyclesAreFetchPlusModePlusHandler
  intro i e s t he ht
  obtain ⟨e', t', he', ht', hcycles⟩ := exec_charges_handlerCost i s
  cases he.symm.trans he'
  cases ht.symm.trans ht'
  exact (charged_iff_cycles_resolved _ _ s t).mpr hcycles

/-- Settles O5: the fetch takes exactly the encoding, which decodes to the instruction. -/
theorem stepRunsTheInstructionAtPc : Obligations.StepRunsTheInstructionAtPc := by
  unfold Obligations.StepRunsTheInstructionAtPc
  intro s i hrun hwf hbytes
  exact step_of_fetchInstr_ok hrun (fetchInstr_of_readBytes_eq_encode hwf hbytes)

end Sys2Proof.Safety
end

section
/-! Proofs for 41_adc.md: the decimal correction on natural numbers and digit by digit (R100), the signed meaning of the overflow (R100,
R105), and the nine forms, which all run one handler on their operand (R101 to R104). -/

namespace Sys2Proof.Safety

open Sys2Proof.Machine

theorem bit_eq_toNat (c : Bool) : bit c = c.toNat := by cases c <;> rfl

/-! ### The decimal correction on natural numbers (41_adc.md R100) -/

theorem decimalNibble_toNat (r : QWord) (n : Nat) :
    (decimalNibble r n).toNat = if 9 < r.toNat / 16 ^ n % 16 then (r.toNat + 6 * 16 ^ n) % 2 ^ 64 else r.toNat := by
  rw [decimalNibble, apply_ite BitVec.toNat, BitVec.toNat_add, BitVec.toNat_ofNat, Nat.add_mod_mod]

/-- The model's correction of bit vectors is the spec's of numbers, nibble by nibble. -/
theorem foldl_decimalNibble_toNat (r : QWord) (n : Nat) : ((List.range n).foldl decimalNibble r).toNat = bcdFix n r.toNat := by
  induction n with
  | zero => rfl
  | succ n ih => rw [List.range_succ, List.foldl_append, List.foldl_cons, List.foldl_nil, decimalNibble_toNat, ih, bcdFix]

theorem decimalCorrect_toNat (r : QWord) : (decimalCorrect r).toNat = bcdFix 16 r.toNat := foldl_decimalNibble_toNat r 16

/-! ### Nibbles and the numbers that packed digits stand for -/

/-- Nibble `i` of a number. -/
def nibble (y i : Nat) : Nat := y / 16 ^ i % 16

/-- The number that the `n` low nibbles stand for as decimal digits. -/
def packedValue (n y : Nat) : Nat := ((List.range n).map fun i => nibble y i * 10 ^ i).sum

theorem digit_eq_nibble (r : QWord) (i : Nat) : digit r i = nibble r.toNat i := rfl

theorem bcdValue_eq_packedValue (r : QWord) : bcdValue r = packedValue 16 r.toNat := rfl

theorem packedValue_succ (n y : Nat) : packedValue (n + 1) y = packedValue n y + nibble y n * 10 ^ n := by
  simp [packedValue, List.range_succ]

theorem packedValue_congr {n y z : Nat} (h : ∀ i < n, nibble y i = nibble z i) : packedValue n y = packedValue n z := by
  rw [packedValue, packedValue, List.map_congr_left fun i hi => by rw [h i (List.mem_range.mp hi)]]

theorem packedValue_lt {n y : Nat} (h : ∀ i < n, nibble y i ≤ 9) : packedValue n y < 10 ^ n := by
  induction n with
  | zero => exact Nat.one_pos
  | succ n ih =>
    have hlow := ih fun i hi => h i (by omega)
    have hdigit : nibble y n * 10 ^ n ≤ 9 * 10 ^ n := Nat.mul_le_mul_right _ (h n (by omega))
    rw [packedValue_succ, Nat.pow_succ]
    omega

/-- What is added from nibble `n` on changes no nibble below. -/
theorem nibble_add_mul_pow (y d : Nat) {i n : Nat} (h : i < n) : nibble (y + d * 16 ^ n) i = nibble y i := by
  obtain ⟨k, rfl⟩ := Nat.exists_eq_add_of_lt h
  have hpow : d * 16 ^ (i + k + 1) = d * 16 ^ k * 16 * 16 ^ i := by ring
  rw [nibble, hpow, Nat.add_mul_div_right _ _ (by positivity), Nat.add_mul_mod_self_right, nibble]

theorem nibble_mod_pow (y : Nat) {i n : Nat} (h : i < n) : nibble (y % 16 ^ n) i = nibble y i := by
  rw [← nibble_add_mul_pow (y % 16 ^ n) (y / 16 ^ n) h, Nat.mod_add_div']

theorem nibble_lt (y i : Nat) : nibble y i < 16 := Nat.mod_lt _ (by decide)

theorem div_pow_eq_nibble_add (y n : Nat) : y / 16 ^ n = nibble y n + 16 * (y / 16 ^ (n + 1)) := by
  rw [Nat.pow_succ, ← Nat.div_div_eq_div_mul, nibble, Nat.mod_add_div]

/-! ### The correction on decimal digits (41_adc.md, corner cases of R100; decision D16) -/

/-- After the correction of the `n` low nibbles of `a + m + c`, `y` (not reduced modulo 2^64) holds the `n` low digits of the decimal sum,
and its nibbles from `n` on those of `a` and `m` still to be corrected, with the decimal carry `k` added to them. -/
structure CorrectedBelow (a m c n y k : Nat) : Prop where
  carry_le : k ≤ 1
  digit_le : ∀ i < n, nibble y i ≤ 9
  value_eq : packedValue n y + k * 10 ^ n = packedValue n a + packedValue n m + c
  upper_eq : y / 16 ^ n = a / 16 ^ n + m / 16 ^ n + k

theorem CorrectedBelow.zero (a m : Nat) {c : Nat} (hc : c ≤ 1) : CorrectedBelow a m c 0 (a + m + c) c where
  carry_le := hc
  digit_le := nofun
  value_eq := by simp [packedValue]
  upper_eq := by simp

section
variable {a m c n y k : Nat}

/-- A digit sum of at most 14 leaves room for the carry: the nibble to be corrected is the digit sum with the carry. -/
theorem CorrectedBelow.nibble_eq (h : CorrectedBelow a m c n y k) (hsum : nibble a n + nibble m n ≤ 14) :
    nibble y n = nibble a n + nibble m n + k := by
  have hk := h.carry_le
  have hy := h.upper_eq
  rw [div_pow_eq_nibble_add a n, div_pow_eq_nibble_add m n] at hy
  rw [nibble, hy]
  omega

theorem CorrectedBelow.succ_of_carry (h : CorrectedBelow a m c n y k) {k' : Nat} (hk' : k' ≤ 1) (hle : 10 * k' ≤ nibble y n)
    (hlt : nibble y n ≤ 10 * k' + 9) (hsum : nibble a n + nibble m n ≤ 14) : CorrectedBelow a m c (n + 1) (y + 6 * k' * 16 ^ n) k' := by
  have hy := h.nibble_eq hsum
  have hlow : ∀ i < n, nibble (y + 6 * k' * 16 ^ n) i = nibble y i := fun i hi => nibble_add_mul_pow y _ hi
  have hupper : (y + 6 * k' * 16 ^ n) / 16 ^ n = a / 16 ^ n + m / 16 ^ n + k + 6 * k' := by
    rw [Nat.add_mul_div_right _ _ (by positivity), h.upper_eq]
  have hlt16 := nibble_lt (y + 6 * k' * 16 ^ n) n
  rw [div_pow_eq_nibble_add _ n, div_pow_eq_nibble_add a n, div_pow_eq_nibble_add m n] at hupper
  have hdigit : nibble (y + 6 * k' * 16 ^ n) n + 10 * k' = nibble a n + nibble m n + k := by omega
  refine ⟨hk', fun i hi => ?_, ?_, by omega⟩
  · obtain hi | rfl := Nat.lt_succ_iff_lt_or_eq.mp hi
    · exact (hlow i hi).trans_le (h.digit_le i hi)
    · omega
  · simp only [packedValue_succ, packedValue_congr hlow]
    linear_combination h.value_eq + 10 ^ n * hdigit

/-- Correcting nibble `n` leaves the next digit of the sum there; the 6 that is added carries into the nibble above. -/
theorem CorrectedBelow.succ (h : CorrectedBelow a m c n y k) (hsum : nibble a n + nibble m n ≤ 14) :
    ∃ k', CorrectedBelow a m c (n + 1) (if 9 < nibble y n then y + 6 * 16 ^ n else y) k' := by
  have hy := h.nibble_eq hsum
  have hk := h.carry_le
  split
  · exact ⟨1, h.succ_of_carry (k' := 1) (by omega) (by omega) (by omega) hsum⟩
  · exact ⟨0, by simpa using h.succ_of_carry (k' := 0) (by omega) (by omega) (by omega) hsum⟩

/-- The correction keeps to the digits of the sum while it stays within the sixteen nibbles, read modulo 2^64. -/
theorem exists_correctedBelow_bcdFix (a m : Nat) {c : Nat} (hc : c ≤ 1) (hsum : ∀ i < 16, nibble a i + nibble m i ≤ 14) (n : Nat)
    (hn : n ≤ 16) : ∃ y k, bcdFix n ((a + m + c) % 2 ^ 64) = y % 2 ^ 64 ∧ CorrectedBelow a m c n y k := by
  induction n with
  | zero => exact ⟨_, _, rfl, .zero a m hc⟩
  | succ n ih =>
    obtain ⟨y, k, hy, hbelow⟩ := ih (by omega)
    obtain ⟨k', hsucc⟩ := hbelow.succ (hsum n (by omega))
    have hnibble : y % 2 ^ 64 / 16 ^ n % 16 = nibble y n := nibble_mod_pow (n := 16) y (by omega)
    refine ⟨_, k', ?_, hsucc⟩
    rw [bcdFix, hy, hnibble, Nat.mod_add_mod]
    exact (apply_ite (· % 2 ^ 64) _ _ _).symm

end

/-- Settles O25: after sixteen corrections what is left is the sum and a carry out of 10^16. -/
theorem decimalCorrectionAddsShortDigits : Obligations.DecimalCorrectionAddsShortDigits := by
  unfold Obligations.DecimalCorrectionAddsShortDigits
  intro a m c hdigits
  have hsum : ∀ i < 16, nibble a.toNat i + nibble m.toNat i ≤ 14 := fun i hi => by
    obtain ⟨-, -, hle⟩ := hdigits i hi
    exact hle
  obtain ⟨y, k, hy, hbelow⟩ := exists_correctedBelow_bcdFix a.toNat m.toNat c.toNat_le hsum 16 le_rfl
  have hcorrect : (decimalCorrect (BitVec.ofNat 64 (adcRaw a m c))).toNat = y % 2 ^ 64 := by
    rw [decimalCorrect_toNat, BitVec.toNat_ofNat, adcRaw, hy]
  have hnibble : ∀ i < 16, nibble (y % 2 ^ 64) i = nibble y i := fun i hi => nibble_mod_pow (n := 16) y hi
  simp only [digit_eq_nibble, bcdValue_eq_packedValue, hcorrect, bit_eq_toNat]
  refine ⟨fun i hi => (hnibble i hi).trans_le (hbelow.digit_le i hi), ?_⟩
  rw [packedValue_congr hnibble, ← hbelow.value_eq, Nat.add_mul_mod_self_right, Nat.mod_eq_of_lt (packedValue_lt hbelow.digit_le)]

/-! ### The signed overflow (41_adc.md R100, R105) -/

/-- The sum of R100 read as a signed number is the signed sum, wrapped. -/
theorem adcRaw_toInt (a m : QWord) (c : Bool) :
    (BitVec.ofNat 64 (adcRaw a m c)).toInt = (a.toInt + m.toInt + bit c).bmod (2 ^ 64) := by
  have hsum : BitVec.ofNat 64 (adcRaw a m c) = a + m + BitVec.ofNat 64 c.toNat := by simp [adcRaw, BitVec.ofNat_add]
  have hcarry : (BitVec.ofNat 64 c.toNat).toInt = bit c := by cases c <;> rfl
  rw [hsum, BitVec.toInt_add, BitVec.toInt_add, Int.bmod_add_bmod, hcarry]

/-- Settles O24: the wrapped sum has another sign than the operands' common one exactly when the sum is out of range. -/
theorem adcOverflowIsSignedOverflow : Obligations.AdcOverflowIsSignedOverflow := by
  unfold Obligations.AdcOverflowIsSignedOverflow
  intro a m c
  have ha := a.toInt_lt
  have ha' := a.le_toInt
  have hm := m.toInt_lt
  have hm' := m.le_toInt
  have hc := c.toNat_le
  rw [adcOverflow, Bool.eq_iff_iff]
  simp only [BitVec.msb_eq_toInt, adcRaw_toInt, bit_eq_toNat, Int.bmod_def, Bool.and_eq_true, beq_iff_eq, bne_iff_ne, ne_eq,
    decide_eq_decide, decide_eq_true_eq]
  omega

/-- The overflow in bits: bit 63 is the sign. -/
theorem adcOverflow_eq_decide (a m r : QWord) :
    adcOverflow a m r = decide (a.getLsbD 63 = m.getLsbD 63 ∧ r.toNat.testBit 63 ≠ a.getLsbD 63) := by
  rw [adcOverflow, Bool.eq_iff_iff]
  simp only [BitVec.msb_eq_getLsbD_last, Bool.and_eq_true, beq_iff_eq, bne_iff_ne, decide_eq_true_eq]
  rfl

/-! ### The handler on its operand (41_adc.md R100) -/

/-- The value ADC leaves in A: the sum, corrected in decimal mode. -/
def adcValue (m : QWord) (s : State) : QWord :=
  if s.flag .decimal then decimalCorrect (BitVec.ofNat 64 (adcRaw s.a m (s.flag .carry)))
  else BitVec.ofNat 64 (adcRaw s.a m (s.flag .carry))

theorem doAdc_flag (m : QWord) (s : State) (g : Flag) :
    (doAdc m s).flag g =
      if g = .zero then adcValue m s == 0
      else if g = .negative then (adcValue m s).msb
      else if g = .overflow then adcOverflow s.a m (BitVec.ofNat 64 (adcRaw s.a m (s.flag .carry)))
      else if g = .carry then adcCarry s.a m (s.flag .carry)
      else s.flag g := by
  simp only [doAdc, State.charge_flag, State.flag_setNZ64, State.setA_flag, State.flag_setFlag, adcValue]

theorem adcRaw_eq (a m : QWord) (c : Bool) : adcRaw a m c = a.toNat + m.toNat + bit c := by
  rw [adcRaw, bit_eq_toNat]

theorem adcValue_toNat (m : QWord) (s : State) :
    (adcValue m s).toNat =
      if s.flag .decimal then bcdFix 16 ((s.a.toNat + m.toNat + bit (s.flag .carry)) % 2 ^ 64)
      else (s.a.toNat + m.toNat + bit (s.flag .carry)) % 2 ^ 64 := by
  rw [adcValue, apply_ite BitVec.toNat, decimalCorrect_toNat, BitVec.toNat_ofNat, adcRaw_eq]

theorem doAdc_frame (m : QWord) (s : State) : Frame [.a] [.carry, .overflow, .negative, .zero] s (doAdc m s) := by
  refine ⟨fun r hr => ?_, fun f hf => ?_, ⟨rfl, rfl⟩, rfl, rfl, rfl, rfl⟩
  · cases r with
    | a => simp at hr
    | _ => rfl
  · simp only [List.mem_cons, List.not_mem_nil, or_false, not_or] at hf
    obtain ⟨hc, hv, hn, hz⟩ := hf
    simp [doAdc_flag, hc, hv, hn, hz]

theorem doAdc_effect (m : QWord) (s : State) : AdcEffect m s (doAdc m s) := by
  have hvalue := adcValue_toNat m s
  refine ⟨hvalue, ?_, ?_, ?_, ?_, doAdc_frame m s, fun _ => rfl⟩
  · simp [doAdc_flag, adcCarry, adcRaw_eq]
  · simp [doAdc_flag, adcOverflow_eq_decide, adcRaw_eq]
  · rw [← hvalue]
    simp [doAdc_flag, BitVec.msb_eq_getLsbD_last, BitVec.getLsbD]
  · rw [← hvalue, doAdc_flag, if_pos rfl, Bool.eq_iff_iff]
    simp [BitVec.toNat_eq]

theorem doAdc_advanced (m : QWord) (s : State) (mode : Mode) :
    Advanced (1 + mode.operandBytes) (baseCycles mode + Config.hcyc .adc) s (doAdc m (s.fetched.resolved mode)) := by
  refine ⟨?_, rfl, (charged_iff_cycles_resolved _ _ _ _).mpr rfl⟩
  rw [BitVec.ofNat_add, ← BitVec.add_assoc]
  rfl

/-- An instruction that runs the handler on the operand `m` after the fetch and the resolver of `mode` has the effect of R100: the fetch and
the resolver change `pc`, `tpc` and `cycles` only, of which the effect does not speak. -/
theorem completes_of_exec_eq_doAdc {i : Instr} {s : State} {m : QWord} (mode : Mode)
    (h : exec i s = .next (doAdc m (s.fetched.resolved mode))) :
    Completes i s fun t =>
      AdcEffect m s t ∧ Advanced (1 + mode.operandBytes) (baseCycles mode + Config.hcyc .adc) s t :=
  ⟨_, h, doAdc_effect m (s.fetched.resolved mode), doAdc_advanced m s mode⟩

theorem plusInt_toInt {w : Nat} (a : QWord) (d : BitVec w) : plusInt a d.toInt = a + d.signExtend 64 := by
  rw [plusInt, BitVec.ofInt_add, BitVec.ofInt_natCast, BitVec.ofNat_toNat, BitVec.setWidth_eq]
  rfl

/-- Settles O22, form by form. -/
theorem adcImmediateForms : Obligations.AdcImmediateForms := by
  unfold Obligations.AdcImmediateForms
  intro s
  simp only [BitVec.ofNat_toNat]
  refine ⟨fun i => ?_, fun i => ?_, fun i => ?_, fun i x => ?_⟩
  · simpa [baseCycles, Mode.operandBytes] using completes_of_exec_eq_doAdc (i := .adcImm8 i) (s := s) .imm8 rfl
  · exact completes_of_exec_eq_doAdc .imm16 rfl
  · exact completes_of_exec_eq_doAdc .imm32 rfl
  · exact completes_of_exec_eq_doAdc .imm64 rfl

/-- Settles O23, form by form. -/
theorem adcMemoryForms : Obligations.AdcMemoryForms := by
  unfold Obligations.AdcMemoryForms
  intro s
  simp only [plusInt_toInt]
  refine ⟨fun _ => ?_, fun _ => ?_, fun _ => ?_, fun _ => ?_, fun _ => ?_⟩
  · exact completes_of_exec_eq_doAdc .abs rfl
  · exact completes_of_exec_eq_doAdc .absX rfl
  · exact completes_of_exec_eq_doAdc .absY rfl
  · exact completes_of_exec_eq_doAdc .sr rfl
  · exact completes_of_exec_eq_doAdc .srIY rfl

end Sys2Proof.Safety
end

section
/-! Proofs for 42_branches_jumps.md: the rules that carry a frame through a move of `pc`, a charge and a word push, then the four handlers
(branch R110, JMP R121, JSR R122, RTS R123), each stated once for every instruction that runs it. -/

namespace Sys2Proof.Machine

/-! ### Where the fetch and the resolver leave `pc` (40_addressing_modes.md R80, R82) -/

theorem State.resolved_fetched_pc (s : State) (m : Mode) :
    (s.fetched.resolved m).pc = s.pc + BitVec.ofNat 64 (1 + m.operandBytes) := by
  rw [BitVec.ofNat_add, ← BitVec.add_assoc]
  rfl

/-! ### A word push (46_stack.md R165) -/

theorem State.read16_push16 (s : State) (v : Word) (o : Endian) : (s.push16 v o).read16 s.sp o = v :=
  s.read16_write16 s.sp v o

end Sys2Proof.Machine

namespace Sys2Proof.Safety

open Sys2Proof.Machine

/-! ### The spec's truncation and displacement (00_scope.md R5) -/

theorem trunc16_eq_low16 (a : QWord) : trunc16 a = low16 a := by
  apply BitVec.eq_of_toNat_eq
  rw [trunc16_toNat, low16, BitVec.toNat_ofNat]
  omega

/-- The Relative resolver counts a signed displacement from its own field (40_addressing_modes.md R90). -/
theorem eaRel_fetched (d : Word) (s : State) : eaRel relBase d s.fetched = plusInt (s.pc + 1) d.toInt := by
  rw [plusInt_toInt, ← BitVec.add_zero (s.pc + 1)]
  rfl

/-! ### What keeps a frame -/

theorem Frame.refl (rs : List Reg) (fs : List Flag) (s : State) : Frame rs fs s s :=
  ⟨fun _ _ => rfl, fun _ _ => rfl, ⟨rfl, rfl⟩, rfl, rfl, rfl, rfl⟩

section
variable {rs : List Reg} {fs : List Flag} {s t : State} (h : Frame rs fs s t)
include h

theorem Frame.setPC (v : QWord) : Frame rs fs s (t.setPC v) := h

theorem Frame.charge (n : Nat) : Frame rs fs s (t.charge n) := h

theorem Frame.setSP (hsp : .sp ∈ rs) (v : QWord) : Frame rs fs s (t.setSP v) := by
  obtain ⟨hregs, hrest⟩ := h
  refine ⟨fun r hr => ?_, hrest⟩
  cases r with
  | sp => exact absurd hsp hr
  | _ => exact hregs _ hr

theorem Frame.push16 (hsp : .sp ∈ rs) (v : Word) (o : Endian) : Frame rs fs s (t.push16 v o) := by
  have hwrite : Frame rs fs s (t.write16 t.sp v o) := h
  exact hwrite.setSP hsp _

end

theorem sameBytesBut_push16 (s : State) (v : Word) (o : Endian) : SameBytesBut s.sp 2 s (s.push16 v o) :=
  fun k hk => s.read8_write16_outside s.sp k v o hk

/-! ### Past the fetch and the resolver, which move `pc`, `tpc` and `cycles` only -/

section
variable {m : Mode} {s t : State}

theorem Frame.of_resolved {rs : List Reg} {fs : List Flag} (h : Frame rs fs (s.fetched.resolved m) t) : Frame rs fs s t := h

theorem SameBytes.of_resolved (h : SameBytes (s.fetched.resolved m) t) : SameBytes s t := h

theorem SameBytesBut.of_resolved {lo : QWord} {n : Nat} (h : SameBytesBut lo n (s.fetched.resolved m) t) : SameBytesBut lo n s t := h

/-- An instruction that leaves `tpc` to the fetch and charges `n` beyond the resolver of `m` ran for the mode's cycles and `n`. -/
theorem Ran.of_resolved {n : Nat} (htpc : t.tpc = (s.fetched.resolved m).tpc)
    (hcycles : t.cycles = (s.fetched.resolved m).cycles + BitVec.ofNat 64 n) : Ran (baseCycles m + n) s t :=
  ⟨htpc, (charged_iff_cycles_resolved m n s t).mpr hcycles⟩

end

/-! ### The branches (42_branches_jumps.md R110 to R120) -/

theorem doBranch_pc (c : Bool) (ea : QWord) (s : State) : (doBranch c ea s).pc = if c then low16 ea else s.pc := by
  cases c with
  | false => rfl
  | true => exact trunc16_eq_low16 ea

theorem doBranch_tpc (c : Bool) (ea : QWord) (s : State) : (doBranch c ea s).tpc = s.tpc := by
  cases c <;> rfl

theorem doBranch_frame (c : Bool) (ea : QWord) (s : State) : Frame [] [] s (doBranch c ea s) := by
  cases c with
  | false => exact (Frame.refl [] [] s).charge 2
  | true => exact ((Frame.refl [] [] s).setPC _).charge 3

theorem doBranch_sameBytes (c : Bool) (ea : QWord) (s : State) : SameBytes s (doBranch c ea s) := by
  cases c <;> exact fun _ => rfl

theorem doBranch_ran (c : Bool) (ea : QWord) (s : State) :
    Ran (1 + if c then 3 else 2) s (doBranch c ea (s.fetched.resolved .rel)) :=
  Ran.of_resolved (m := .rel) (doBranch_tpc c ea _) (doBranch_cycles c ea _)

/-- Each branch is the handler on its own flag, after the Relative resolver. -/
theorem branchEffect_doBranch (c : Bool) (d : Word) (s : State) :
    BranchEffect c d s (doBranch c (eaRel relBase d s.fetched) (s.fetched.resolved .rel)) := by
  refine ⟨?_, doBranch_ran c _ s, (doBranch_frame c _ _).of_resolved, (doBranch_sameBytes c _ _).of_resolved⟩
  rw [doBranch_pc, eaRel_fetched, State.resolved_fetched_pc]
  rfl

/-- Settles O26: the handler field by field, and the ten branches by their meanings. -/
theorem branchHandlerTruncatesAndCharges : Obligations.BranchHandlerTruncatesAndCharges := by
  unfold Obligations.BranchHandlerTruncatesAndCharges
  refine ⟨fun c ea s => ?_, fun d s => ⟨rfl, rfl, rfl, rfl, rfl, rfl, rfl, rfl, rfl, rfl⟩⟩
  obtain ⟨-, hcharged⟩ := doBranch_ran c ea s
  exact ⟨doBranch_pc c ea s, doBranch_cycles c ea s, doBranch_tpc c ea s, doBranch_frame c ea s, doBranch_sameBytes c ea s, hcharged⟩

theorem completes_of_exec_eq_doBranch {i : Instr} {s : State} {c : Bool} {d : Word}
    (h : exec i s = .next (doBranch c (eaRel relBase d s.fetched) (s.fetched.resolved .rel))) :
    Completes i s (BranchEffect c d s) :=
  ⟨_, h, branchEffect_doBranch c d s⟩

/-- Settles O27: each conditional branch is the handler on its own flag. -/
theorem conditionalBranches : Obligations.ConditionalBranches := by
  unfold Obligations.ConditionalBranches
  intro s d
  obtain ⟨hbcc, hbcs, hbeq, hbne, hbmi, hbpl, hbvc, hbvs, -, -⟩ := branchHandlerTruncatesAndCharges.2 d s
  exact ⟨completes_of_exec_eq_doBranch hbcc, completes_of_exec_eq_doBranch hbcs, completes_of_exec_eq_doBranch hbeq,
    completes_of_exec_eq_doBranch hbne, completes_of_exec_eq_doBranch hbmi, completes_of_exec_eq_doBranch hbpl,
    completes_of_exec_eq_doBranch hbvc, completes_of_exec_eq_doBranch hbvs⟩

/-- Settles O28: both are the handler on a condition that always holds. -/
theorem unconditionalBranches : Obligations.UnconditionalBranches := by
  unfold Obligations.UnconditionalBranches
  intro s d
  obtain ⟨-, -, -, -, -, -, -, -, hbra, hbrl⟩ := branchHandlerTruncatesAndCharges.2 d s
  exact ⟨completes_of_exec_eq_doBranch hbra, completes_of_exec_eq_doBranch hbrl, hbra.trans hbrl.symm⟩

/-! ### JMP (42_branches_jumps.md R121) -/

theorem doJmp_frame (ea : QWord) (s : State) : Frame [] [] s (doJmp ea s) := ((Frame.refl [] [] s).setPC _).charge _

theorem doJmp_sameBytes (ea : QWord) (s : State) : SameBytes s (doJmp ea s) := fun _ => rfl

theorem completes_of_exec_eq_doJmp {i : Instr} {s : State} {ea : QWord} (mode : Mode)
    (h : exec i s = .next (doJmp ea (s.fetched.resolved mode))) :
    Completes i s fun t =>
      t.pc = low16 ea ∧ Ran (baseCycles mode + Config.hcyc .jmp) s t ∧ Frame [] [] s t ∧ SameBytes s t :=
  ⟨_, h, trunc16_eq_low16 ea, .of_resolved rfl rfl, (doJmp_frame ea _).of_resolved, (doJmp_sameBytes ea _).of_resolved⟩

/-- Settles O29: the three forms are one handler on the effective addresses of their modes. -/
theorem jumpsTruncateTheirTarget : Obligations.JumpsTruncateTheirTarget := by
  unfold Obligations.JumpsTruncateTheirTarget
  refine fun s => ⟨fun f => ?_, fun p x => ?_, fun f => ?_⟩
  · exact completes_of_exec_eq_doJmp .abs rfl
  · exact completes_of_exec_eq_doJmp .absInd rfl
  · exact completes_of_exec_eq_doJmp .absXInd rfl

/-! ### JSR and RTS (42_branches_jumps.md R122, R123) -/

theorem doJsr_tpc (ea : QWord) (s : State) (o : Endian) : (doJsr ea s o).tpc = s.tpc := rfl

theorem doJsr_cycles (ea : QWord) (s : State) (o : Endian) :
    (doJsr ea s o).cycles = s.cycles + BitVec.ofNat 64 (Config.hcyc .jsr) := rfl

theorem doJsr_frame (ea : QWord) (s : State) (o : Endian) : Frame [.sp] [] s (doJsr ea s o) :=
  (((Frame.refl [.sp] [] s).push16 (List.mem_singleton_self _) _ o).setPC _).charge _

theorem doJsr_read16 (ea : QWord) (s : State) (o : Endian) : (doJsr ea s o).read16 s.sp o = lowWord s.pc :=
  s.read16_push16 (lowWord s.pc) o

theorem doJsr_sameBytesBut (ea : QWord) (s : State) (o : Endian) : SameBytesBut s.sp 2 s (doJsr ea s o) :=
  sameBytesBut_push16 s (lowWord s.pc) o

/-- Past 16 operand bytes the handler pushes the low word of the address 17 bytes after the opcode, at the old SP. -/
theorem completes_of_exec_eq_doJsr {i : Instr} {s : State} {ea : QWord} (mode : Mode) (hbytes : mode.operandBytes = 16)
    (h : exec i s = .next (doJsr ea (s.fetched.resolved mode))) :
    Completes i s fun t =>
      t.pc = low16 ea ∧ (t.read16 s.sp).toNat = (s.pc + 17).toNat % 65536 ∧ t.sp = s.sp - 2 ∧ SameBytesBut s.sp 2 s t ∧
        Frame [.sp] [] s t ∧ Ran (baseCycles mode + Config.hcyc .jsr) s t := by
  have hnext : (s.fetched.resolved mode).pc = s.pc + 17 := by
    rw [State.resolved_fetched_pc, hbytes]
    rfl
  have hpushed : (doJsr ea (s.fetched.resolved mode)).read16 s.sp = lowWord (s.fetched.resolved mode).pc :=
    doJsr_read16 ea (s.fetched.resolved mode) endian
  have hothers : SameBytesBut s.sp 2 (s.fetched.resolved mode) (doJsr ea (s.fetched.resolved mode)) :=
    doJsr_sameBytesBut ea (s.fetched.resolved mode) endian
  refine ⟨_, h, trunc16_eq_low16 ea, ?_, rfl, hothers.of_resolved, (doJsr_frame ea _ endian).of_resolved,
    .of_resolved (doJsr_tpc ea _ endian) (doJsr_cycles ea _ endian)⟩
  rw [hpushed, lowWord_toNat, hnext]

/-- Settles O30: both forms are one handler, and both modes have 16 operand bytes. -/
theorem jsrPushesTheNextAddress : Obligations.JsrPushesTheNextAddress := by
  unfold Obligations.JsrPushesTheNextAddress
  refine fun s => ⟨fun f => ?_, fun f => ?_⟩
  · exact completes_of_exec_eq_doJsr .abs rfl rfl
  · exact completes_of_exec_eq_doJsr .absXInd rfl rfl

theorem doRts_frame (s : State) (o : Endian) : Frame [.sp] [] s (doRts s o) :=
  (((Frame.refl [.sp] [] s).setSP (List.mem_singleton_self _) _).setPC _).charge _

theorem doRts_pc_toNat (s : State) (o : Endian) : (doRts s o).pc.toNat = (s.read16 (s.sp + 2) o).toNat :=
  BitVec.toNat_setWidth_of_le (by decide)

theorem doRts_sameBytes (s : State) (o : Endian) : SameBytes s (doRts s o) := fun _ => rfl

/-- Settles O31: the handler after a fetch that moves neither SP nor memory. -/
theorem rtsPullsThePc : Obligations.RtsPullsThePc := by
  unfold Obligations.RtsPullsThePc
  intro s
  have hran : Ran (baseCycles .impl + Config.hcyc .rts) s (doRts (s.fetched.resolved .impl)) :=
    Ran.of_resolved (m := .impl) rfl rfl
  rw [baseCycles, Nat.zero_add] at hran
  exact ⟨_, rfl, doRts_pc_toNat (s.fetched.resolved .impl) endian, rfl, hran, (doRts_frame _ endian).of_resolved,
    (doRts_sameBytes _ endian).of_resolved⟩

end Sys2Proof.Safety
end

section
/-! Proofs for 43_traps_halts.md: entering the vectored trap (R130), entering the coprocessor trap (R131) and where its payload lies in memory
(30_encoding.md R64), and the two halts (R132, R133). -/

namespace Sys2Proof.Machine

/-! ### A word access and the bytes around it -/

/-- A word access depends on the two bytes at its address only. -/
theorem State.read16_congr {s t : State} {a : QWord} (o : Endian)
    (h : ∀ i < 2, t.read8 (a + BitVec.ofNat 64 i) = s.read8 (a + BitVec.ofNat 64 i)) : t.read16 a o = s.read16 a o := by
  simp only [State.read8_eq_get] at h
  rw [State.read16, State.read16, Memory.read, Memory.read, Memory.readBytes_congr s.mem t.mem 2 a h]

theorem State.read8_push8 (s : State) (v : Byte) : (s.push8 v).read8 s.sp = v := s.read8_write8 s.sp v

theorem State.read8_push8_outside (s : State) (v : Byte) {k : QWord} (h : k ≠ s.sp) : (s.push8 v).read8 k = s.read8 k :=
  s.read8_write8_outside s.sp k v h

/-- The words in an even run of memory, the word of each offset `2 * i` in turn. -/
theorem State.wordsOfBytes_readBytes (s : State) (o : Endian) (n : Nat) (a : QWord) :
    wordsOfBytes o (s.mem.readBytes (2 * n) a) = (List.range n).map fun i => s.read16 (a + BitVec.ofNat 64 (2 * i)) o := by
  induction n generalizing a with
  | zero => rfl
  | succ n ih =>
    have hnext : ∀ i, a + 1 + 1 + BitVec.ofNat 64 (2 * i) = a + BitVec.ofNat 64 (2 * (i + 1)) := fun i => by
      rw [Nat.mul_succ, Nat.add_comm, BitVec.ofNat_add, ← BitVec.add_assoc, BitVec.add_assoc a 1 1]
      rfl
    have hcons : wordsOfBytes o (s.mem.readBytes (2 * n + 2) a) =
        s.read16 a o :: wordsOfBytes o (s.mem.readBytes (2 * n) (a + 1 + 1)) := rfl
    rw [Nat.mul_succ, hcons, ih, List.range_succ_eq_map, List.map_cons, List.map_map, Nat.mul_zero, BitVec.add_zero]
    exact congrArg _ (List.map_congr_left fun i _ => congrArg (s.read16 · o) (hnext i))

/-! ### Entering the vectored trap (43_traps_halts.md R130, 60_exceptions.md R224) -/

theorem State.enterTrap_pc (s : State) (o : Endian) : (s.enterTrap o).pc = ((s.enterTrap o).read16 brkVector o).setWidth 64 := rfl

theorem State.enterTrap_sp (s : State) (o : Endian) : (s.enterTrap o).sp = s.sp - 3 := by
  rw [State.enterTrap_eq]

theorem State.enterTrap_flag (s : State) (o : Endian) (g : Flag) :
    (s.enterTrap o).flag g = if g = .decimal then false else if g = .interruptDisable then true else s.flag g := by
  simp only [State.enterTrap, State.setPC_flag, State.flag_setFlag, State.push8_flag, State.push16_flag]

/-- The memory of the trap is that of its two pushes. -/
theorem State.enterTrap_read8 (s : State) (o : Endian) (k : QWord) :
    (s.enterTrap o).read8 k = ((s.push16 (lowWord s.pc) o).push8 s.p).read8 k := rfl

/-- P lies below the return word. -/
theorem State.enterTrap_read8_saved (s : State) (o : Endian) : (s.enterTrap o).read8 (s.sp - 2) = s.p :=
  (s.push16 (lowWord s.pc) o).read8_push8 s.p

/-- P is pushed past the return word, which stays as pushed. -/
theorem State.enterTrap_read16_return (s : State) (o : Endian) : (s.enterTrap o).read16 s.sp o = lowWord s.pc := by
  refine (State.read16_congr o fun i hi => ?_).trans (s.read16_push16 (lowWord s.pc) o)
  have hbelow : s.sp + BitVec.ofNat 64 i ≠ s.sp - 2 := by
    intro he
    bv_omega
  exact (s.push16 (lowWord s.pc) o).read8_push8_outside s.p hbelow

theorem State.enterTrap_read8_outside (s : State) (o : Endian) {k : QWord} (h0 : k ≠ s.sp) (h1 : k ≠ s.sp + 1) (h2 : k ≠ s.sp - 2) :
    (s.enterTrap o).read8 k = s.read8 k := by
  rw [State.enterTrap_read8, State.read8_push8_outside _ _ h2]
  refine s.read8_write16_outside s.sp k (lowWord s.pc) o fun i hi => ?_
  match i, hi with
  | 0, _ => simpa using h0
  | 1, _ => exact h1

/-! ### The payload of a COP in memory (43_traps_halts.md R131, 30_encoding.md R64) -/

/-- At the byte `0x02` the fetch answers the COP whose payload stands in memory from the size byte on. -/
theorem State.fetchInstr_of_cop (s : State) (hop : s.read8 s.pc = 0x02) :
    fetchInstr s.mem s.pc = .ok (.cop (s.copAt (s.pc + 1) endian).size (s.copAt (s.pc + 1) endian).opcode
      (s.copAt (s.pc + 1) endian).words, []) := by
  have hlen : (s.copAt (s.pc + 1) endian).words.length = (s.read8 (s.pc + 1)).toNat := by simp [State.copAt]
  have hwords : bytesOfWords endian (s.copAt (s.pc + 1) endian).words =
      s.mem.readBytes (2 * (s.read8 (s.pc + 1)).toNat) (s.pc + 1 + 2) := by
    rw [State.copAt, ← State.wordsOfBytes_readBytes]
    exact bytesOfWords_wordsOfBytes endian _ _ (Memory.readBytes_length ..)
  have hpast : s.pc + 1 + 2 = s.pc + 1 + 1 + 1 := by rw [BitVec.add_assoc (s.pc + 1)]; rfl
  refine fetchInstr_of_readBytes_eq_encode (beq_iff_eq.mpr hlen) ?_
  simp only [encode, Instr.operands, List.length_cons, hwords, Memory.readBytes_length, Memory.readBytes, ← State.read8_eq_get, hop, hpast]
  rfl

end Sys2Proof.Machine

namespace Sys2Proof.Safety

open Sys2Proof.Machine

/-! ### What keeps a frame -/

section
variable {rs : List Reg} {fs : List Flag} {s t : State} (h : Frame rs fs s t)
include h

theorem Frame.push8 (hsp : .sp ∈ rs) (v : Byte) : Frame rs fs s (t.push8 v) := by
  have hwrite : Frame rs fs s (t.write8 t.sp v) := h
  exact hwrite.setSP hsp _

theorem Frame.setFlag {f : Flag} (hf : f ∈ fs) (v : Bool) : Frame rs fs s (t.setFlag f v) := by
  obtain ⟨hregs, hflags, hrest⟩ := h
  refine ⟨hregs, fun g hg => ?_, hrest⟩
  rw [State.flag_setFlag, if_neg (ne_of_mem_of_not_mem hf hg).symm]
  exact hflags g hg

end

/-- An instruction that leaves `pc` and `tpc` to the fetch and the resolver of `m` moved past its operand bytes. -/
theorem Advanced.of_resolved {m : Mode} {s t : State} {n : Nat} (hpc : t.pc = (s.fetched.resolved m).pc)
    (htpc : t.tpc = (s.fetched.resolved m).tpc) (hcycles : t.cycles = (s.fetched.resolved m).cycles + BitVec.ofNat 64 n) :
    Advanced (1 + m.operandBytes) (baseCycles m + n) s t :=
  ⟨hpc.trans (s.resolved_fetched_pc m), .of_resolved htpc hcycles⟩

/-! ### BRK (43_traps_halts.md R130) -/

theorem enterTrap_frame (s : State) (o : Endian) : Frame [.sp] [.interruptDisable, .decimal] s (s.enterTrap o) :=
  (((((Frame.refl _ _ s).push16 (by decide) _ o).push8 (by decide) s.p).setFlag (by decide) true).setFlag (by decide) false).setPC _

theorem doBrk_tpc (s : State) (o : Endian) : (doBrk s o).tpc = s.tpc := by
  rw [doBrk, State.charge_tpc, State.enterTrap_eq]

theorem doBrk_cycles (s : State) (o : Endian) : (doBrk s o).cycles = s.cycles + BitVec.ofNat 64 8 := by
  rw [doBrk, State.charge_cycles, State.enterTrap_eq]

/-- Settles O33: the handler is the trap entry, which the fetch reaches with `pc` at the byte after the opcode and all else as it was. -/
theorem brkEntersTheTrap : Obligations.BrkEntersTheTrap := by
  unfold Obligations.BrkEntersTheTrap
  intro s
  have hreturn : ((s.fetched.resolved .impl).enterTrap endian).read16 s.sp = lowWord (s.fetched.resolved .impl).pc :=
    (s.fetched.resolved .impl).enterTrap_read16_return endian
  have hran : Ran (baseCycles .impl + 8) s (doBrk (s.fetched.resolved .impl)) :=
    .of_resolved (doBrk_tpc _ endian) (doBrk_cycles _ endian)
  refine ⟨doBrk (s.fetched.resolved .impl), rfl, ?_⟩
  simp only [doBrk, State.charge_read16, State.charge_read8, State.charge_sp, State.charge_flag, State.charge_pc]
  refine ⟨?_, (s.fetched.resolved .impl).enterTrap_read8_saved endian, (s.fetched.resolved .impl).enterTrap_sp endian,
    (s.fetched.resolved .impl).enterTrap_flag endian .interruptDisable, (s.fetched.resolved .impl).enterTrap_flag endian .decimal, ?_,
    fun k => (s.fetched.resolved .impl).enterTrap_read8_outside endian, ((enterTrap_frame _ endian).charge 8).of_resolved, hran⟩
  · rw [hreturn, lowWord_toNat, State.resolved_fetched_pc]
    rfl
  · rw [State.enterTrap_pc]
    exact BitVec.toNat_setWidth_of_le (by decide)

/-! ### What COP, STP and WAI leave unchanged -/

/-- Everything but `pc`, `tpc`, `cycles`, the stop reason and the capture is unchanged. -/
def SameButController (s t : State) : Prop := SameRegsBut [] s t ∧ SameFlagsBut [] s t ∧ SameHidden s t ∧ SameBytes s t

theorem SameButController.refl (s : State) : SameButController s s := ⟨fun _ _ => rfl, fun _ _ => rfl, ⟨rfl, rfl, rfl, rfl⟩, fun _ => rfl⟩

theorem SameButController.of_resolved {m : Mode} {s t : State} (h : SameButController (s.fetched.resolved m) t) : SameButController s t := h

section
variable {s t : State} (h : SameButController s t)
include h

theorem SameButController.setPC (v : QWord) : SameButController s (t.setPC v) := h

theorem SameButController.setCop (c : Option CopCapture) : SameButController s (t.setCop c) := h

theorem SameButController.setStop (r : StopReason) : SameButController s (t.setStop r) := h

theorem SameButController.charge (n : Nat) : SameButController s (t.charge n) := h

end

theorem sameButController_doCop (ea : QWord) (c : CopCapture) (s : State) : SameButController s (doCop ea c s) :=
  ((((SameButController.refl s).setPC _).setCop _).setStop _).charge _

/-! ### COP (43_traps_halts.md R131) -/

theorem doCop_tpc (ea : QWord) (c : CopCapture) (s : State) : (doCop ea c s).tpc = s.tpc := rfl

theorem doCop_cycles (ea : QWord) (c : CopCapture) (s : State) :
    (doCop ea c s).cycles = s.cycles + BitVec.ofNat 64 (Config.hcyc .cop) := rfl

/-- Settles O35: the handler captures the operand and moves `pc` from the size byte past the payload. -/
theorem copCapturesAndStops : Obligations.CopCapturesAndStops := by
  unfold Obligations.CopCapturesAndStops
  intro s size op words
  have hran : Ran (baseCycles .imm8 + Config.hcyc .cop) s (doCop (eaField s.fetched) ⟨size, op, words⟩ (s.fetched.resolved .imm8)) :=
    .of_resolved (doCop_tpc _ _ _) (doCop_cycles _ _ _)
  rw [baseCycles, Nat.zero_add] at hran
  refine ⟨_, rfl, rfl, rfl, ⟨?_, hran⟩, (sameButController_doCop _ _ _).of_resolved⟩
  rw [BitVec.ofNat_add, ← BitVec.add_assoc]
  exact congrArg (· + BitVec.ofNat 64 (2 * size.toNat)) (BitVec.add_assoc s.pc 1 2)

/-- Settles O36: the fetch answers the COP of the payload in memory, which the handler captures. -/
theorem steppedCopCapturesTheMemoryBlock : Obligations.SteppedCopCapturesTheMemoryBlock := by
  unfold Obligations.SteppedCopCapturesTheMemoryBlock
  intro s hrun hop
  obtain ⟨t, hexec, hcop, hstop, -⟩ := copCapturesAndStops s _ _ _
  refine ⟨t, s.copAt (s.pc + 1) endian, (step_of_fetchInstr_ok hrun (s.fetchInstr_of_cop hop)).trans hexec, hcop, hstop, rfl, ?_, ?_,
    fun i hi => ?_⟩
  · exact congrArg s.read8 (BitVec.add_assoc s.pc 1 1)
  · simp [State.copAt]
  · have hword : (s.copAt (s.pc + 1) endian).words[i]? = some (s.read16 (s.pc + 1 + 2 + BitVec.ofNat 64 (2 * i))) := by
      simpa [State.copAt, List.getElem?_eq_some_iff] using hi
    rw [hword, BitVec.add_assoc s.pc 1 2]
    rfl

/-! ### STP and WAI (43_traps_halts.md R132, R133) -/

/-- An instruction that sets the stop reason after the fetch and charges its cycles does nothing else. -/
theorem completes_of_exec_eq_setStop {i : Instr} {s : State} {r : StopReason} {n : Nat}
    (h : exec i s = .next (((s.fetched.resolved .impl).setStop r).charge n)) :
    Completes i s fun t => t.stop = r ∧ Advanced 1 n s t ∧ t.cop = s.cop ∧
      SameRegsBut [] s t ∧ SameFlagsBut [] s t ∧ SameHidden s t ∧ SameBytes s t := by
  have hadvanced : Advanced (1 + Mode.impl.operandBytes) (baseCycles .impl + n) s (((s.fetched.resolved .impl).setStop r).charge n) :=
    .of_resolved (by simp) (by simp) (by simp)
  rw [baseCycles, Nat.zero_add] at hadvanced
  exact ⟨_, h, by simp, hadvanced, by simp, (((SameButController.refl _).setStop r).charge n).of_resolved⟩

/-- Settles O37: the two handlers set their own reasons. -/
theorem stpAndWaiHalt : Obligations.StpAndWaiHalt := by
  unfold Obligations.StpAndWaiHalt
  exact fun s => ⟨completes_of_exec_eq_setStop rfl, completes_of_exec_eq_setStop rfl⟩

end Sys2Proof.Safety
end

section
/-! Proofs for 44_block_move.md: one count step (R140, R141), and the repetition of the instruction at its own address until the count
wraps. -/

namespace Sys2Proof.Machine

/-! ### The count (44_block_move.md R140) -/

theorem lowWord_sub_one_toNat (v : QWord) : (lowWord v - 1).toNat = (v.toNat + 65535) % 65536 := by
  have hlow := lowWord_toNat v
  bv_omega

/-- The count wraps exactly from 0. -/
theorem lowWord_sub_one_eq_iff (v : QWord) : lowWord v - 1 = 0xFFFF ↔ v.toNat % 65536 = 0 := by
  have hlow := lowWord_toNat v
  bv_omega

theorem blockStep_eq (s : State) :
    blockStep s = (s.setALow (lowWord s.a - 1)).setPC (if s.a.toNat % 65536 = 0 then s.pc else s.tpc) := by
  simp only [blockStep, lowWord_sub_one_eq_iff]
  split <;> rfl

end Sys2Proof.Machine

namespace Sys2Proof.Safety

open Sys2Proof.Machine

/-! ### What keeps a frame -/

theorem Frame.setALow {rs : List Reg} {fs : List Flag} {s t : State} (h : Frame rs fs s t) (ha : .a ∈ rs) (v : Word) :
    Frame rs fs s (t.setALow v) := by
  obtain ⟨hregs, hrest⟩ := h
  refine ⟨fun r hr => ?_, hrest⟩
  cases r with
  | a => exact absurd ha hr
  | _ => exact hregs _ hr

theorem Frame.trans {rs : List Reg} {fs : List Flag} {s t u : State} (h : Frame rs fs s t) (h' : Frame rs fs t u) : Frame rs fs s u := by
  obtain ⟨hregs, hflags, ⟨hstop, hcop⟩, hz, hint, htrace, hill⟩ := h
  obtain ⟨hregs', hflags', ⟨hstop', hcop'⟩, hz', hint', htrace', hill'⟩ := h'
  exact ⟨fun r hr => (hregs' r hr).trans (hregs r hr), fun f hf => (hflags' f hf).trans (hflags f hf),
    ⟨hstop'.trans hstop, hcop'.trans hcop⟩, hz'.trans hz, hint'.trans hint, htrace'.trans htrace, hill'.trans hill⟩

theorem SameBytes.trans {s t u : State} (h : SameBytes s t) (h' : SameBytes t u) : SameBytes s u :=
  fun k => (h' k).trans (h k)

/-- A narrow write over a narrow write is the later one. -/
theorem NarrowWrite.trans {a b c : QWord} {v w : Nat} (h : NarrowWrite a b v) (hv : v < 65536) (h' : NarrowWrite b c w) :
    NarrowWrite a c w := by
  have hupper : b.toNat / 65536 = a.toNat / 65536 := by
    rw [h]
    omega
  rw [NarrowWrite, h', hupper]

/-! ### The count step (44_block_move.md R140) -/

theorem blockStep_narrowWrite (s : State) : NarrowWrite s.a (blockStep s).a ((s.a.toNat + 65535) % 65536) := by
  rw [NarrowWrite, blockStep_eq, State.setPC_a, State.setALow_a, mergeLow_toNat, lowWord_sub_one_toNat]

theorem blockStep_pc (s : State) : (blockStep s).pc = if s.a.toNat % 65536 = 0 then s.pc else s.tpc := by
  rw [blockStep_eq, State.setPC_pc]

theorem blockStep_tpc (s : State) : (blockStep s).tpc = s.tpc := by
  rw [blockStep_eq, State.setPC_tpc, State.setALow_tpc]

theorem blockStep_frame (s : State) : Frame [.a] [] s (blockStep s) := by
  rw [blockStep_eq]
  exact ((Frame.refl [.a] [] s).setALow (List.mem_singleton_self _) _).setPC _

theorem blockStep_sameBytes (s : State) : SameBytes s (blockStep s) := fun k => by
  rw [blockStep_eq, State.setPC_read8, State.setALow_read8]

/-! ### One execution (44_block_move.md R140, R141) -/

/-- Past the fetch, which leaves the instruction's own address in `tpc` and the next one in `pc`, the count step is the spec's. -/
theorem completes_of_exec_eq_blockStep {i : Instr} {s : State} {n : Nat}
    (h : exec i s = .next ((blockStep (s.fetched.resolved .impl)).charge n)) : Completes i s (CountedDown n s) := by
  have hran : Ran (baseCycles .impl + n) s ((blockStep (s.fetched.resolved .impl)).charge n) :=
    .of_resolved (blockStep_tpc _) (congrArg (· + _) (blockStep_cycles _))
  rw [baseCycles, Nat.zero_add] at hran
  refine ⟨_, h, blockStep_narrowWrite (s.fetched.resolved .impl), ?_, ((blockStep_frame _).charge n).of_resolved,
    (blockStep_sameBytes _).of_resolved, hran⟩
  rw [State.charge_pc, blockStep_pc, State.resolved_fetched_pc]
  rfl

/-- Settles O38: the two handlers are the count step with their own cycles. -/
theorem blockMoveStepCountsDown : Obligations.BlockMoveStepCountsDown := by
  unfold Obligations.BlockMoveStepCountsDown
  exact fun s => ⟨completes_of_exec_eq_blockStep rfl, completes_of_exec_eq_blockStep rfl⟩

/-! ### The repetition (44_block_move.md, corner cases of R140) -/

/-- A run of executions is continued at its end. -/
theorem execN_succ_of_exec {i : Instr} {n : Nat} {s t u : State} (hrun : execN i n s = .next t) (hlast : exec i t = .next u) :
    execN i (n + 1) s = .next u := by
  induction n generalizing s with
  | zero =>
    cases hrun
    simp [execN, hlast]
  | succ n ih =>
    obtain ⟨s', hs'⟩ := exec_answers_next i s
    simp only [execN, hs'] at hrun ⊢
    exact ih hrun

/-- The count became `c`, and nothing but `pc`, `tpc` and `cycles` changed besides. -/
def CountedTo (c : Nat) (s t : State) : Prop := NarrowWrite s.a t.a c ∧ Frame [.a] [] s t ∧ SameBytes s t

theorem CountedTo.refl (s : State) : CountedTo (s.a.toNat % 65536) s s :=
  ⟨(Nat.div_add_mod' ..).symm, .refl _ _ s, fun _ => rfl⟩

section
variable {i : Instr} {cyc c : Nat} {s t u : State}

theorem CountedTo.count_eq (h : CountedTo c s t) (hc : c < 65536) : t.a.toNat % 65536 = c := by
  obtain ⟨ha, -⟩ := h
  rw [ha, Nat.mul_add_mod_self_right, Nat.mod_eq_of_lt hc]

/-- One more execution takes the count one down, and leaves `pc` past the instruction only from count 0. -/
theorem CountedTo.countedDown (h : CountedTo c s t) (hc : c < 65536) (hdown : CountedDown cyc t u) :
    CountedTo ((c + 65535) % 65536) s u ∧ u.pc = if c = 0 then t.pc + 1 else t.pc := by
  have hcount := h.count_eq hc
  obtain ⟨ha, hframe, hbytes⟩ := h
  obtain ⟨ha', hpc, hframe', hbytes', -⟩ := hdown
  rw [Nat.add_mod, hcount] at ha'
  rw [hcount] at hpc
  exact ⟨⟨ha.trans hc (by simpa using ha'), hframe.trans hframe', hbytes.trans hbytes'⟩, hpc⟩

variable (hdown : ∀ s, Completes i s (CountedDown cyc s))
include hdown

/-- While the count lasts, each execution takes it one down and rewinds `pc`. -/
theorem execN_rewinds (s : State) (k : Nat) (hk : k ≤ s.a.toNat % 65536) :
    ∃ t, execN i k s = .next t ∧ t.pc = s.pc ∧ CountedTo (s.a.toNat % 65536 - k) s t := by
  induction k with
  | zero => exact ⟨s, rfl, rfl, .refl s⟩
  | succ k ih =>
    obtain ⟨t, hrun, hpc, hcounted⟩ := ih (by omega)
    obtain ⟨u, hexec, hu⟩ := hdown t
    obtain ⟨hcounted', hpc'⟩ := hcounted.countedDown (by omega) hu
    rw [if_neg (by omega), hpc] at hpc'
    have hnext : (s.a.toNat % 65536 - k + 65535) % 65536 = s.a.toNat % 65536 - (k + 1) := by omega
    exact ⟨u, execN_succ_of_exec hrun hexec, hpc', hnext ▸ hcounted'⟩

/-- The execution from count 0 wraps the count and leaves `pc` past the instruction. -/
theorem execN_leaves (s : State) :
    ∃ t, execN i (s.a.toNat % 65536 + 1) s = .next t ∧ t.pc = s.pc + 1 ∧ CountedTo 0xFFFF s t := by
  obtain ⟨t, hrun, hpc, hcounted⟩ := execN_rewinds hdown s _ le_rfl
  rw [Nat.sub_self] at hcounted
  obtain ⟨u, hexec, hu⟩ := hdown t
  obtain ⟨hcounted', hpc'⟩ := hcounted.countedDown (by decide) hu
  rw [if_pos rfl, hpc] at hpc'
  exact ⟨u, execN_succ_of_exec hrun hexec, hpc', hcounted'⟩

end

/-- Settles O39: the count lasts for n executions, and the next one leaves. -/
theorem blockMoveRepeatsCountPlusOneTimes : Obligations.BlockMoveRepeatsCountPlusOneTimes := by
  unfold Obligations.BlockMoveRepeatsCountPlusOneTimes
  intro i s hi
  obtain ⟨cyc, hdown⟩ : ∃ cyc, ∀ s, Completes i s (CountedDown cyc s) := by
    obtain rfl | rfl := hi
    · exact ⟨_, fun s => (blockMoveStepCountsDown s).1⟩
    · exact ⟨_, fun s => (blockMoveStepCountsDown s).2⟩
  refine ⟨fun k hk => ?_, ?_⟩
  · obtain ⟨t, hrun, hpc, -⟩ := execN_rewinds hdown s k hk
    exact ⟨t, hrun, hpc⟩
  · obtain ⟨t, hrun, hpc, ha, hframe, hbytes⟩ := execN_leaves hdown s
    exact ⟨t, hrun, ha, hpc, hframe, hbytes⟩

end Sys2Proof.Safety
end

section
/-! Proofs for 45_transfers.md: a write of one register (R145) and the flags of a 64-bit result (10_state.md R18), each with what it leaves
unchanged; every transfer is the first, and ten of them the second after it. -/

namespace Sys2Proof.Safety

open Sys2Proof.Machine

/-! ### What keeps a frame -/

section
variable {rs : List Reg} {fs : List Flag} {s t : State} (h : Frame rs fs s t)
include h

theorem Frame.mono {rs' : List Reg} {fs' : List Flag} (hrs : rs ⊆ rs') (hfs : fs ⊆ fs') : Frame rs' fs' s t := by
  obtain ⟨hregs, hflags, hrest⟩ := h
  exact ⟨fun r hr => hregs r (mt (@hrs r) hr), fun f hf => hflags f (mt (@hfs f) hf), hrest⟩

theorem Frame.setNZ64 (hn : .negative ∈ fs) (hz : .zero ∈ fs) (v : QWord) : Frame rs fs s (t.setNZ64 v) :=
  (h.setFlag hn v.msb).setFlag hz (v == 0)

end

/-! ### N and Z of a 64-bit result (10_state.md R18) -/

theorem nz64_setNZ64 (v : QWord) (s : State) : NZ64 v (s.setNZ64 v) := by
  constructor
  · simp [State.flag_setNZ64, BitVec.msb_eq_getLsbD_last]
  · rw [State.flag_setNZ64, if_pos rfl, Bool.eq_iff_iff]
    simp [BitVec.toNat_eq]

theorem reg_setNZ64 (v : QWord) (s : State) (r : Reg) : reg (s.setNZ64 v) r = reg s r := by
  cases r <;> rfl

/-! ### A write of one register by name (45_transfers.md R145) -/

/-- The state with one register replaced, all 64 bits. -/
def setReg (r : Reg) (v : QWord) (s : State) : State :=
  match r with
  | .a => s.setA v
  | .b => { s with b := v }
  | .x => s.setX v
  | .y => s.setY v
  | .sp => s.setSP v
  | .d => s.setD v

theorem reg_setReg (r : Reg) (v : QWord) (s : State) (q : Reg) : reg (setReg r v s) q = if q = r then v else reg s q := by
  cases r <;> cases q <;> rfl

@[simp] theorem setReg_pc (r : Reg) (v : QWord) (s : State) : (setReg r v s).pc = s.pc := by cases r <;> rfl

@[simp] theorem setReg_tpc (r : Reg) (v : QWord) (s : State) : (setReg r v s).tpc = s.tpc := by cases r <;> rfl

@[simp] theorem setReg_cycles (r : Reg) (v : QWord) (s : State) : (setReg r v s).cycles = s.cycles := by cases r <;> rfl

@[simp] theorem setReg_read8 (r : Reg) (v : QWord) (s : State) (k : QWord) : (setReg r v s).read8 k = s.read8 k := by cases r <;> rfl

theorem setReg_frame (r : Reg) (v : QWord) (s : State) : Frame [r] [] s (setReg r v s) := by
  refine ⟨fun q hq => ?_, ?_⟩
  · rw [reg_setReg, if_neg (List.ne_of_not_mem_cons hq)]
  · cases r <;> exact ⟨fun _ _ => rfl, ⟨rfl, rfl⟩, rfl, rfl, rfl, rfl⟩

/-! ### The transfers (45_transfers.md R145 to R158) -/

/-- An instruction of one byte that leaves `pc` and `tpc` to the fetch and charges `n` moved past its opcode. -/
theorem Advanced.of_implied {s t : State} {n : Nat} (hpc : t.pc = (s.fetched.resolved .impl).pc)
    (htpc : t.tpc = (s.fetched.resolved .impl).tpc) (hcycles : t.cycles = (s.fetched.resolved .impl).cycles + BitVec.ofNat 64 n) :
    Advanced 1 n s t := by
  have hadvanced := Advanced.of_resolved hpc htpc hcycles
  rwa [baseCycles, Nat.zero_add] at hadvanced

/-- A register write and a charge after the fetch, which changes `pc`, `tpc` and `cycles` only. -/
theorem loaded_setReg (r : Reg) (v : QWord) (n : Nat) (s : State) :
    Loaded r v n s ((setReg r v (s.fetched.resolved .impl)).charge n) := by
  have hreg : reg ((setReg r v (s.fetched.resolved .impl)).charge n) r = v := (reg_setReg r v _ r).trans (if_pos rfl)
  have hbytes : SameBytes (s.fetched.resolved .impl) ((setReg r v (s.fetched.resolved .impl)).charge n) :=
    setReg_read8 r v (s.fetched.resolved .impl)
  exact ⟨hreg, ((setReg_frame r v _).charge n).of_resolved, hbytes.of_resolved, .of_implied (by simp) (by simp) (by simp)⟩

/-- Setting N and Z from the transferred value touches no register, so it adds the flags to the transfer and nothing else. -/
theorem Loaded.setNZ64 {r : Reg} {v : QWord} {n : Nat} {s t : State} (h : Loaded r v n s t) : LoadedNZ r v n s (t.setNZ64 v) := by
  obtain ⟨hreg, hframe, hbytes, hadvanced⟩ := h
  have hframe' : Frame [r] [.negative, .zero] s t := hframe.mono (List.Subset.refl _) (List.nil_subset _)
  exact ⟨(reg_setNZ64 v t r).trans hreg, nz64_setNZ64 v t, hframe'.setNZ64 (by decide) (by decide) v, hbytes, hadvanced⟩

theorem completes_of_exec_eq_setReg {i : Instr} {s : State} {r : Reg} {v : QWord} {n : Nat}
    (h : exec i s = .next ((setReg r v (s.fetched.resolved .impl)).charge n)) : Completes i s (Loaded r v n s) :=
  ⟨_, h, loaded_setReg r v n s⟩

theorem completes_of_exec_eq_setReg_setNZ64 {i : Instr} {s : State} {r : Reg} {v : QWord} {n : Nat}
    (h : exec i s = .next (((setReg r v (s.fetched.resolved .impl)).charge n).setNZ64 v)) : Completes i s (LoadedNZ r v n s) :=
  ⟨_, h, (loaded_setReg r v n s).setNZ64⟩

/-- Settles O40: each handler is a write of its destination register, and ten of them set N and Z after it. -/
theorem transfersCopyAllSixtyFourBits : Obligations.TransfersCopyAllSixtyFourBits := by
  unfold Obligations.TransfersCopyAllSixtyFourBits
  intro s
  refine ⟨?tax, ?tay, ?txa, ?txy, ?tya, ?tyx, ?tsa, ?tsx, ?tba, ?tdc, ?txs, ?tas, ?tcd⟩
  case txs | tas | tcd => exact completes_of_exec_eq_setReg rfl
  all_goals exact completes_of_exec_eq_setReg_setNZ64 rfl

end Sys2Proof.Safety
end

section
/-! Proofs for 46_stack.md: a pull after a push (R165, R166), and the pushes and pulls of a register's low word (R167 to R172) and of P
(R176, R177), each stated once for every instruction that runs it. -/

namespace Sys2Proof.Machine

/-! ### A pull after a push (46_stack.md R165, R166) -/

theorem State.push16_pull16_sp (s : State) (v : Word) (o : Endian) : (s.push16 v o).pull16.sp = s.sp :=
  BitVec.sub_add_cancel s.sp 2

theorem State.push8_pull8_sp (s : State) (v : Byte) : (s.push8 v).pull8.sp = s.sp :=
  BitVec.sub_add_cancel s.sp 1

/-- A pull reads at the SP it leaves, which after a push is where the push wrote. -/
theorem State.pull16Value_push16 (s : State) (v : Word) (o : Endian) : (s.push16 v o).pull16Value o = v := by
  have hread : (s.push16 v o).pull16Value o = (s.push16 v o).read16 (s.push16 v o).pull16.sp o := rfl
  rw [hread, State.push16_pull16_sp, State.read16_push16]

theorem State.pull8Value_push8 (s : State) (v : Byte) : (s.push8 v).pull8Value = v := by
  have hread : (s.push8 v).pull8Value = (s.push8 v).read8 (s.push8 v).pull8.sp := rfl
  rw [hread, State.push8_pull8_sp, State.read8_push8]

end Sys2Proof.Machine

namespace Sys2Proof.Safety

open Sys2Proof.Machine

/-- Settles O41: a pull's own effect is its definition, and a push leaves SP where the pull brings it back. -/
theorem pullAfterPushReturnsTheValue : Obligations.PullAfterPushReturnsTheValue := by
  unfold Obligations.PullAfterPushReturnsTheValue
  exact fun s => ⟨⟨rfl, rfl, rfl, rfl⟩, fun v o => ⟨s.pull16Value_push16 v o, s.push16_pull16_sp v o⟩,
    fun v => ⟨s.pull8Value_push8 v, s.push8_pull8_sp v⟩⟩

/-! ### What keeps a frame -/

section
variable {rs : List Reg} {fs : List Flag} {s t : State} (h : Frame rs fs s t)
include h

theorem Frame.setReg {r : Reg} (hr : r ∈ rs) (v : QWord) : Frame rs fs s (setReg r v t) :=
  h.trans ((setReg_frame r v t).mono (List.cons_subset.mpr ⟨hr, List.nil_subset rs⟩) (List.nil_subset fs))

theorem Frame.setNZ16 (hn : .negative ∈ fs) (hz : .zero ∈ fs) (v : Word) : Frame rs fs s (t.setNZ16 v) :=
  (h.setFlag hn v.msb).setFlag hz (v == 0)

end

/-! ### Word pushes (46_stack.md R165, R167 to R169) -/

/-- A word push and a charge after the fetch and the resolver, which leave SP and memory alone. -/
theorem pushedWord_push16 (m : Mode) (w : Word) (n : Nat) (s : State) :
    PushedWord w (1 + m.operandBytes) (baseCycles m + n) s (((s.fetched.resolved m).push16 w).charge n) := by
  have hpushed : (((s.fetched.resolved m).push16 w).charge n).read16 s.sp = w := (s.fetched.resolved m).read16_push16 w endian
  have hothers : SameBytesBut s.sp 2 (s.fetched.resolved m) (((s.fetched.resolved m).push16 w).charge n) :=
    sameBytesBut_push16 (s.fetched.resolved m) w endian
  have hframe : Frame [.sp] [] (s.fetched.resolved m) (((s.fetched.resolved m).push16 w).charge n) :=
    ((Frame.refl [.sp] [] _).push16 (List.mem_singleton_self _) w endian).charge n
  exact ⟨hpushed, rfl, hothers.of_resolved, hframe.of_resolved, .of_resolved (by simp) (by simp) (by simp)⟩

/-- An implied instruction that pushes the low word of `v`. -/
theorem completes_of_exec_eq_push16 {i : Instr} {s : State} {v : QWord} {n : Nat}
    (h : exec i s = .next (((s.fetched.resolved .impl).push16 (lowWord v)).charge n)) :
    Completes i s (PushedWord (BitVec.ofNat 16 v.toNat) 1 n s) := by
  have hpushed := pushedWord_push16 .impl (lowWord v) n s
  rw [baseCycles, Nat.zero_add] at hpushed
  rw [BitVec.ofNat_toNat]
  exact ⟨_, h, hpushed⟩

/-- Settles O42: each handler pushes the low word of its register. -/
theorem registerPushesStoreTheLowWord : Obligations.RegisterPushesStoreTheLowWord := by
  unfold Obligations.RegisterPushesStoreTheLowWord
  exact fun s => ⟨completes_of_exec_eq_push16 rfl, completes_of_exec_eq_push16 rfl, completes_of_exec_eq_push16 rfl⟩

/-! ### N and Z of a 16-bit result (10_state.md R18, decision D17) -/

theorem nz16_setNZ16 (v : Word) (s : State) : NZ16 v (s.setNZ16 v) := by
  constructor
  · simp [State.flag_setNZ16, BitVec.msb_eq_getLsbD_last]
  · rw [State.flag_setNZ16, if_pos rfl, Bool.eq_iff_iff]
    simp [BitVec.toNat_eq]

theorem reg_setNZ16 (v : Word) (s : State) (r : Reg) : reg (s.setNZ16 v) r = reg s r := by
  cases r <;> rfl

/-! ### Word pulls into a register (46_stack.md R166, R170 to R172) -/

/-- The state after a pull of a word into the low word of a register, with the flags of the word. -/
def pullInto (r : Reg) (s : State) : State :=
  (setReg r (mergeLow (reg s r) s.pull16Value) s.pull16).setNZ16 s.pull16Value

@[simp] theorem pullInto_pc (r : Reg) (s : State) : (pullInto r s).pc = s.pc := by simp [pullInto]

@[simp] theorem pullInto_tpc (r : Reg) (s : State) : (pullInto r s).tpc = s.tpc := by simp [pullInto]

@[simp] theorem pullInto_cycles (r : Reg) (s : State) : (pullInto r s).cycles = s.cycles := by simp [pullInto]

theorem reg_pullInto (r q : Reg) (s : State) :
    reg (pullInto r s) q = if q = r then mergeLow (reg s r) s.pull16Value else reg s.pull16 q := by
  rw [pullInto, reg_setNZ16, reg_setReg]

theorem pullInto_narrowWrite (r : Reg) (s : State) : NarrowWrite (reg s r) (reg (pullInto r s) r) s.pull16Value.toNat := by
  rw [NarrowWrite, reg_pullInto, if_pos rfl, mergeLow_toNat]

theorem pullInto_nz16 (r : Reg) (s : State) : NZ16 s.pull16Value (pullInto r s) := nz16_setNZ16 _ _

/-- SP keeps the pull's value where the word goes to another register. -/
theorem pullInto_sp {r : Reg} (hr : r ≠ .sp) (s : State) : (pullInto r s).sp = s.sp + 2 :=
  (reg_pullInto r .sp s).trans (if_neg hr.symm)

theorem pullInto_sameBytes (r : Reg) (s : State) : SameBytes s (pullInto r s) := fun k => by simp [pullInto]

theorem pullInto_frame (r : Reg) (s : State) : Frame [r, .sp] [.negative, .zero] s (pullInto r s) :=
  (((Frame.refl _ _ s).setSP (by simp) _).setReg List.mem_cons_self _).setNZ16 (by decide) (by decide) _

theorem reg_resolved_fetched (s : State) (m : Mode) (r : Reg) : reg (s.fetched.resolved m) r = reg s r := by
  cases r <;> rfl

theorem reg_charge (s : State) (n : Nat) (r : Reg) : reg (s.charge n) r = reg s r := by
  cases r <;> rfl

theorem pull16Value_resolved_fetched (s : State) (m : Mode) (o : Endian) :
    (s.fetched.resolved m).pull16Value o = s.read16 (s.sp + 2) o := by
  simp [State.pull16Value]

/-- An instruction that pulls into a register after the fetch, which leaves registers and memory alone. -/
theorem completes_of_exec_eq_pullInto {i : Instr} {s : State} {r : Reg} {n : Nat} (hr : r ≠ .sp)
    (h : exec i s = .next ((pullInto r (s.fetched.resolved .impl)).charge n)) : Completes i s (PulledWord r n s) := by
  have hword := pullInto_narrowWrite r (s.fetched.resolved .impl)
  have hflags : NZ16 _ ((pullInto r (s.fetched.resolved .impl)).charge n) := pullInto_nz16 r (s.fetched.resolved .impl)
  rw [reg_resolved_fetched, pull16Value_resolved_fetched] at hword
  rw [pull16Value_resolved_fetched] at hflags
  refine ⟨_, h, ?_, hflags, pullInto_sp hr _, ((pullInto_frame r _).charge n).of_resolved, (pullInto_sameBytes r _).of_resolved,
    .of_implied (by simp) (by simp) (by simp)⟩
  rwa [reg_charge]

/-- Settles O44: each handler is a pull into its own register. -/
theorem registerPullsKeepTheUpperBits : Obligations.RegisterPullsKeepTheUpperBits := by
  unfold Obligations.RegisterPullsKeepTheUpperBits
  exact fun s => ⟨completes_of_exec_eq_pullInto (by decide) rfl, completes_of_exec_eq_pullInto (by decide) rfl,
    completes_of_exec_eq_pullInto (by decide) rfl⟩

/-! ### PHP and PLP (46_stack.md R176, R177, decision D14) -/

theorem doPhp_frame (s : State) : Frame [.sp] [] s (doPhp s) :=
  ((Frame.refl [.sp] [] s).push8 (List.mem_singleton_self _) s.p).charge _

theorem doPhp_read8 (s : State) : (doPhp s).read8 s.sp = s.p := s.read8_push8 s.p

theorem doPhp_advanced (s : State) : Advanced 1 (Config.hcyc .php) s (doPhp (s.fetched.resolved .impl)) :=
  .of_implied (by simp [doPhp]) (by simp [doPhp]) (by simp [doPhp])

theorem doPhp_sameBytesBut (s : State) : SameBytesBut s.sp 1 s (doPhp s) := fun k hk =>
  s.read8_push8_outside s.p (by simpa using hk 0 Nat.one_pos)

/-- The eight flags (10_state.md R17). -/
def allFlags : List Flag := [.carry, .zero, .interruptDisable, .decimal, .trap, .parity, .overflow, .negative]

theorem mem_allFlags (f : Flag) : f ∈ allFlags := by cases f <;> decide

/-- Replacing all of P is within a frame that lets every flag change. -/
theorem Frame.setP {rs : List Reg} {s t : State} (h : Frame rs allFlags s t) (v : Byte) : Frame rs allFlags s (t.setP v) := by
  obtain ⟨hregs, -, hrest⟩ := h
  exact ⟨hregs, fun f hf => absurd (mem_allFlags f) hf, hrest⟩

theorem doPlp_frame (s : State) : Frame [.sp] allFlags s (doPlp s) :=
  (((Frame.refl [.sp] allFlags s).setSP (List.mem_singleton_self _) (s.sp + 1)).setP s.pull8Value).charge _

theorem doPlp_sameBytes (s : State) : SameBytes s (doPlp s) := fun k => by simp [doPlp]

theorem doPlp_p (s : State) : (doPlp s).p = s.read8 (s.sp + 1) := rfl

theorem doPlp_advanced (s : State) : Advanced 1 (Config.hcyc .plp) s (doPlp (s.fetched.resolved .impl)) :=
  .of_implied (by simp [doPlp]) (by simp [doPlp]) (by simp [doPlp])

/-- Settles O45: the two handlers after a fetch that moves neither SP, P nor memory. -/
theorem flagsPushAndPullAsOneByte : Obligations.FlagsPushAndPullAsOneByte := by
  unfold Obligations.FlagsPushAndPullAsOneByte
  intro s
  constructor
  case left =>
    have hsaved : (doPhp (s.fetched.resolved .impl)).read8 s.sp = s.p := by simpa using doPhp_read8 (s.fetched.resolved .impl)
    exact ⟨_, rfl, hsaved, rfl, (doPhp_sameBytesBut (s.fetched.resolved .impl)).of_resolved, (doPhp_frame _).of_resolved,
      doPhp_advanced s⟩
  case right =>
    have hpulled : (doPlp (s.fetched.resolved .impl)).p = s.read8 (s.sp + 1) := by simpa using doPlp_p (s.fetched.resolved .impl)
    obtain ⟨hregs, -, hcontroller, hhidden⟩ := (doPlp_frame (s.fetched.resolved .impl)).of_resolved
    exact ⟨_, rfl, hpulled, rfl, (doPlp_sameBytes _).of_resolved, hregs, hcontroller, hhidden, doPlp_advanced s⟩

end Sys2Proof.Safety
end

section
/-! Proofs for 47_flag_bit_ops.md: REP and SEP replace P and nothing else (R185, R186); TRB and TSB are one test and store of a qword
(R187, R188), stated once for both, which differ in the value stored. -/

namespace Sys2Proof.Safety

open Sys2Proof.Machine

/-! ### REP and SEP (47_flag_bit_ops.md R185, R186) -/

/-- An immediate byte instruction that replaces P and charges `n` beyond the fetch, which leaves P, registers and memory alone. -/
theorem completes_of_exec_eq_setP {i : Instr} {s : State} {v : Byte} {n : Nat} {bits : Nat → Bool}
    (h : exec i s = .next (((s.fetched.resolved .imm8).setP v).charge n)) (hbits : ∀ k < 8, v.getLsbD k = bits k) :
    Completes i s fun t => (∀ k < 8, t.p.getLsbD k = bits k) ∧ SameRegsBut [] s t ∧ SameController s t ∧ SameHidden s t ∧
      SameBytes s t ∧ Advanced 2 n s t := by
  have hframe : Frame [] allFlags s (((s.fetched.resolved .imm8).setP v).charge n) :=
    (((Frame.refl [] allFlags _).setP v).charge n).of_resolved
  have hadvanced : Advanced 2 (0 + n) s (((s.fetched.resolved .imm8).setP v).charge n) :=
    Advanced.of_resolved (m := .imm8) rfl rfl rfl
  obtain ⟨hregs, -, hcontroller, hhidden⟩ := hframe
  rw [Nat.zero_add] at hadvanced
  exact ⟨_, h, hbits, hregs, hcontroller, hhidden, fun _ => rfl, hadvanced⟩

/-- Settles O46: both handlers replace P, by its conjunction with the mask's complement and by its disjunction with the mask. -/
theorem repClearsAndSepSetsTheMaskedBits : Obligations.RepClearsAndSepSetsTheMaskedBits := by
  unfold Obligations.RepClearsAndSepSetsTheMaskedBits
  intro s m
  constructor
  case left => exact completes_of_exec_eq_setP (v := s.p &&& ~~~m) rfl fun k hk => by simp [hk]
  case right => exact completes_of_exec_eq_setP (v := s.p ||| m) rfl fun k _ => BitVec.getLsbD_or

/-! ### TRB and TSB (47_flag_bit_ops.md R187, R188, decision D39) -/

/-- The test of TRB and TSB: no bit is set in both words. -/
theorem and_beq_zero_iff {w : Nat} (a m : BitVec w) : (a &&& m == 0) = true ↔ ∀ k < w, (a.getLsbD k && m.getLsbD k) = false := by
  rw [beq_iff_eq, BitVec.eq_of_getLsbD_eq_iff]
  simp

/-- The state after Z is set from A and the qword at `ea`, and `v` stored there. -/
def testThenStore (ea v : QWord) (s : State) : State := (s.setFlag .zero (s.a &&& s.read64 ea == 0)).write64 ea v

theorem doTrb_eq (ea : QWord) (s : State) : doTrb ea s = (testThenStore ea (s.read64 ea &&& ~~~s.a) s).charge (Config.hcyc .trb) := rfl

theorem doTsb_eq (ea : QWord) (s : State) : doTsb ea s = (testThenStore ea (s.read64 ea ||| s.a) s).charge (Config.hcyc .tsb) := rfl

theorem testThenStore_flag_zero (ea v : QWord) (s : State) :
    (testThenStore ea v s).flag .zero = true ↔ ∀ k < 64, (s.a.getLsbD k && (s.read64 ea).getLsbD k) = false := by
  rw [testThenStore, State.write64_flag, State.flag_setFlag, if_pos rfl, and_beq_zero_iff]

theorem testThenStore_read64 (ea v : QWord) (s : State) : (testThenStore ea v s).read64 ea = v :=
  State.read64_write64 _ ea v endian

theorem testThenStore_sameBytesBut (ea v : QWord) (s : State) : SameBytesBut ea 8 s (testThenStore ea v s) := fun k hk =>
  State.read8_write64_outside _ ea k v endian hk

theorem testThenStore_frame (ea v : QWord) (s : State) : Frame [] [.zero] s (testThenStore ea v s) :=
  (Frame.refl [] [.zero] s).setFlag (List.mem_singleton_self _) _

/-- An absolute instruction that tests and stores at its operand field, after a fetch that leaves A and memory alone. -/
theorem completes_of_exec_eq_testThenStore {i : Instr} {s : State} {v : QWord} {n : Nat} {bits : Nat → Bool}
    (h : exec i s = .next ((testThenStore (s.pc + 1) v (s.fetched.resolved .abs)).charge n)) (hbits : ∀ k < 64, v.getLsbD k = bits k) :
    Completes i s fun t => (∀ k < 64, (t.read64 (s.pc + 1)).getLsbD k = bits k) ∧
      ((t.flag .zero = true ↔ ∀ k < 64, (s.a.getLsbD k && (s.read64 (s.pc + 1)).getLsbD k) = false) ∧
        SameBytesBut (s.pc + 1) 8 s t ∧ Frame [] [.zero] s t) ∧ Advanced 17 (2 + n) s t := by
  have hread : ((testThenStore (s.pc + 1) v (s.fetched.resolved .abs)).charge n).read64 (s.pc + 1) = v :=
    testThenStore_read64 (s.pc + 1) v (s.fetched.resolved .abs)
  have hothers : SameBytesBut (s.pc + 1) 8 (s.fetched.resolved .abs) ((testThenStore (s.pc + 1) v (s.fetched.resolved .abs)).charge n) :=
    testThenStore_sameBytesBut (s.pc + 1) v (s.fetched.resolved .abs)
  refine ⟨_, h, fun k hk => ?_, ⟨testThenStore_flag_zero (s.pc + 1) v (s.fetched.resolved .abs), hothers.of_resolved,
    ((testThenStore_frame (s.pc + 1) v _).charge n).of_resolved⟩, Advanced.of_resolved (m := .abs) rfl rfl rfl⟩
  rw [hread, hbits k hk]

/-- Settles O47: both handlers test and store, TRB the qword without A's bits and TSB the qword with them. -/
theorem trbAndTsbTestThenModify : Obligations.TrbAndTsbTestThenModify := by
  unfold Obligations.TrbAndTsbTestThenModify
  intro s f
  constructor
  case left =>
    exact completes_of_exec_eq_testThenStore (v := s.read64 (s.pc + 1) &&& ~~~s.a) (congrArg Host.Outcome.next (doTrb_eq _ _))
      fun k hk => by simp [hk]
  case right =>
    exact completes_of_exec_eq_testThenStore (v := s.read64 (s.pc + 1) ||| s.a) (congrArg Host.Outcome.next (doTsb_eq _ _))
      fun k _ => BitVec.getLsbD_or

end Sys2Proof.Safety
end

section
/-! Proofs for 40_addressing_modes.md and 30_encoding.md: the machine that decodes at the fetch and the machine that reads its operands through
the facade are one (R80 to R92), from which the outcomes of a step (R66, R220) and the facade calls of a step (20_memory.md R48) are read
off. -/

namespace Sys2Proof

/-! ### What a fetch answers -/

/-- Dispatch rejects no byte but its own. -/
theorem decodeOp_unassigned_eq {b c : Byte} {bs : List Byte} : decodeOp b bs = .error (.unassigned c) → c = b := by
  unfold decodeOp
  split
  case h_72 =>
    intro h
    cases h
    rfl
  all_goals
    simp only [absFmt, relFmt, imm8Fmt, imm16Fmt, imm32Fmt, imm64Fmt, operand_ne_unassigned, implied_ne_unassigned, copFmt_ne_unassigned,
      false_implies]

end Sys2Proof

namespace Sys2Proof.Machine

theorem lengthFrom_pos (b b1 : Byte) : 0 < lengthFrom b b1 := by
  unfold lengthFrom
  split
  · split <;> omega
  · omega

/-- A fetch starts with the opcode byte. -/
theorem fetchBytes_eq_cons (m : Memory) (pc : QWord) : ∃ r, fetchBytes m pc = m.get pc.toNat :: r := by
  obtain ⟨n, hn⟩ := Nat.exists_eq_add_one.mpr (lengthFrom_pos (m.get pc.toNat) (m.get (pc + 1).toNat))
  rw [fetchBytes, fetchLength, hn]
  exact ⟨_, rfl⟩

/-- The instruction fetched stands at `pc`, byte for byte. -/
theorem readBytes_eq_encode_of_fetchInstr_ok {m : Memory} {pc : QWord} {i : Instr} {r : List Byte} (h : fetchInstr m pc = .ok (i, r)) :
    m.readBytes (encode i).length pc = encode i := by
  obtain ⟨-, hbytes⟩ := Safety.everyDecodedByteStringIsAnEncoding (fetchBytes m pc) i r h
  have hlen : fetchLength m pc = (encode i).length + r.length := by
    rw [← List.length_append, hbytes, fetchBytes, Memory.readBytes_length]
  rw [fetchBytes, hlen, Memory.readBytes_add] at hbytes
  exact (List.append_inj_left hbytes (Memory.readBytes_length ..).symm).symm

/-- A fetch fails exactly at a byte that no row of the map has. -/
theorem State.fetchInstr_cases (s : State) :
    (∃ i, i.wf = true ∧ s.mem.readBytes (encode i).length s.pc = encode i ∧ fetchInstr s.mem s.pc = .ok (i, [])) ∨
      (s.read8 s.pc ∉ opcodeMap.map Prod.fst ∧ fetchInstr s.mem s.pc = .error (.unassigned (s.read8 s.pc))) := by
  cases h : fetchInstr s.mem s.pc with
  | ok p =>
    have hwf := decode_wf _ _ _ h
    have hbytes := readBytes_eq_encode_of_fetchInstr_ok h
    exact .inl ⟨p.1, hwf, hbytes, h.symm.trans (fetchInstr_of_readBytes_eq_encode hwf hbytes)⟩
  | error e =>
    obtain ⟨r, hr⟩ := fetchBytes_eq_cons s.mem s.pc
    rw [← State.read8_eq_get] at hr
    cases e with
    | truncated => exact absurd h (fetchInstr_not_truncated _ _)
    | unassigned c =>
      rw [fetchInstr, hr] at h
      obtain rfl := decodeOp_unassigned_eq h
      exact .inr ⟨(decodeOp_eq_unassigned _ r).mp h, rfl⟩

/-! ### Operands in memory (30_encoding.md R61, 40_addressing_modes.md R83 to R92) -/

section
variable {s : State} {i : Instr} (hbytes : s.mem.readBytes (encode i).length s.pc = encode i)
include hbytes

theorem State.read8_of_readBytes_eq_encode : s.read8 s.pc = i.opcode :=
  (s.read8_eq_get s.pc).trans (List.cons.inj hbytes).1

theorem State.readBytes_operands_of_readBytes_eq_encode : s.mem.readBytes i.operands.length (s.pc + 1) = i.operands :=
  (List.cons.inj hbytes).2

end

/-- A value whose bytes stand at an address is read there. -/
theorem State.read_of_readBytes_eq (s : State) {n : Nat} {a : QWord} {v : BitVec (8 * n)}
    (h : s.mem.readBytes n a = toBytes endian n v.toNat) : BitVec.ofNat (8 * n) (s.mem.read a n) = v := by
  rw [Memory.read, h, ofNat_ofBytes_toBytes]

/-- Of an 8-byte value and the 8 bytes after it, the value is read at their address. -/
theorem State.read64_of_readBytes_eq_append (s : State) {a v : QWord} {bs : List Byte}
    (h : s.mem.readBytes (8 + 8) a = toBytes endian 8 v.toNat ++ bs) : s.read64 a = v := by
  rw [Memory.readBytes_add] at h
  exact s.read_of_readBytes_eq (n := 8) (List.append_inj_left h (by simp))

/-- An instruction that stands at `pc` is run by its row: each operand the handler or the resolver reads in memory is the decoded one. -/
theorem exec_eq_runEntry {i : Instr} {s : State} (hwf : i.wf = true) (hbytes : s.mem.readBytes (encode i).length s.pc = encode i) :
    ∃ e, opcodeMap.lookup i.opcode = some e ∧ exec i s = .next (runEntry endian relBase e s) := by
  have hops := State.readBytes_operands_of_readBytes_eq_encode hbytes
  cases i with
  | adcImm8 v | adcSR v | adcSRIY v | repImm8 v | sepImm8 v =>
    obtain rfl : s.read8 (s.pc + 1) = v := s.read_of_readBytes_eq (n := 1) hops
    exact ⟨_, rfl, rfl⟩
  | adcImm16 v | bpl v | bmi v | bvc v | perRel v | bvs v | bra v | brl v | bcc v | bcs v | bne v | beq v =>
    obtain rfl : s.read16 (s.pc + 1) = v := s.read_of_readBytes_eq (n := 2) hops
    exact ⟨_, rfl, rfl⟩
  | adcImm32 v =>
    obtain rfl : s.read32 (s.pc + 1) = v := s.read_of_readBytes_eq (n := 4) hops
    exact ⟨_, rfl, rfl⟩
  | adcImm64 v x | jmpInd v x | peiInd v x =>
    obtain rfl : s.read64 (s.pc + 1) = v := s.read64_of_readBytes_eq_append hops
    exact ⟨_, rfl, rfl⟩
  | cop size op words =>
    have hfetch := s.fetchInstr_of_cop (State.read8_of_readBytes_eq_encode hbytes)
    cases hfetch.symm.trans (fetchInstr_of_readBytes_eq_encode hwf hbytes)
    exact ⟨_, rfl, rfl⟩
  | _ => exact ⟨_, rfl, rfl⟩

/-! ### The rows of the default map (30_encoding.md R67) -/

theorem lookup_eq_none_iff_notMem (map : OpcodeMap) (b : Byte) : map.lookup b = none ↔ b ∉ map.map Prod.fst := by
  simp only [List.lookup_eq_none_iff, bne_iff_ne, List.mem_map, not_exists, not_and]
  exact forall₂_congr fun _ _ => ne_comm

theorem exists_lookup_of_mem {map : OpcodeMap} {b : Byte} (h : b ∈ map.map Prod.fst) : ∃ e, map.lookup b = some e :=
  Option.ne_none_iff_exists'.mp (mt (lookup_eq_none_iff_notMem map b).mp (not_not_intro h))

theorem wf_opcodeMap : opcodeMap.wf = true := by decide

/-! ### One machine (40_addressing_modes.md R80) -/

theorem step_of_stopped {s : State} (h : s.stop ≠ .running) : step s = .next s := if_pos h

theorem step_eq_facadeStep (s : State) : step s = facadeStep endian relBase opcodeMap s := by
  by_cases hrun : s.stop = .running
  · obtain ⟨i, hwf, hbytes, hfetch⟩ | ⟨hbyte, hfetch⟩ := s.fetchInstr_cases
    · obtain ⟨e, he, hexec⟩ := exec_eq_runEntry hwf hbytes
      rw [← State.read8_of_readBytes_eq_encode hbytes] at he
      rw [step_of_fetchInstr_ok hrun hfetch, hexec, facadeStep_of_lookup_some hrun wf_opcodeMap he]
    · rw [facadeStep_of_lookup_none hrun wf_opcodeMap ((lookup_eq_none_iff_notMem _ _).mpr hbyte)]
      simp [step, hrun, hfetch]
  · rw [step_of_stopped hrun, facadeStep_of_stopped hrun]

/-- What a step has before it: a stopped core, a byte with a row, or an unassigned byte. -/
theorem State.stopped_or_row_or_unassigned (s : State) :
    s.stop ≠ .running ∨ (s.stop = .running ∧ ∃ e, opcodeMap.lookup (s.read8 s.pc) = some e) ∨
      (s.stop = .running ∧ s.read8 s.pc ∉ opcodeMap.map Prod.fst) := by
  by_cases hrun : s.stop = .running
  · by_cases hbyte : s.read8 s.pc ∈ opcodeMap.map Prod.fst
    · exact .inr (.inl ⟨hrun, exists_lookup_of_mem hbyte⟩)
    · exact .inr (.inr ⟨hrun, hbyte⟩)
  · exact .inl hrun

section
variable {s : State}

theorem step_of_lookup_some {e : Entry} (hrun : s.stop = .running) (he : opcodeMap.lookup (s.read8 s.pc) = some e) :
    step s = .next (runEntry endian relBase e s) :=
  (step_eq_facadeStep s).trans (facadeStep_of_lookup_some hrun wf_opcodeMap he)

theorem step_of_unassigned (hrun : s.stop = .running) (hbyte : s.read8 s.pc ∉ opcodeMap.map Prod.fst) :
    step s = .fault (.illegalOpcode (s.read8 s.pc) s.pc) :=
  (step_eq_facadeStep s).trans
    (facadeStep_of_lookup_none hrun wf_opcodeMap ((lookup_eq_none_iff_notMem _ _).mpr hbyte))

end

/-! ### The two input bits (60_exceptions.md R222, 10_state.md R25) -/

theorem doBranch_withInputs (c : Bool) (ea : QWord) (i t : Bool) (s : State) :
    doBranch c ea (Safety.withInputs i t s) = Safety.withInputs i t (doBranch c ea s) := by
  cases c <;> rfl

theorem blockStep_withInputs (i t : Bool) (s : State) :
    blockStep (Safety.withInputs i t s) = Safety.withInputs i t (blockStep s) := by
  rw [blockStep_eq, blockStep_eq]
  rfl

theorem doAdc_withInputs (m : QWord) (i t : Bool) (s : State) :
    doAdc m (Safety.withInputs i t s) = Safety.withInputs i t (doAdc m s) := by
  cases s
  rfl

/-- No handler reads the bits or writes them. -/
theorem handle_withInputs (o : Endian) (h : Handler) (tag : Option Width) (ea : QWord) (i t : Bool) (s : State) :
    handle o h tag ea (Safety.withInputs i t s) = Safety.withInputs i t (handle o h tag ea s) := by
  cases h with
  | adc => exact doAdc_withInputs (s.readTag tag ea o) i t s
  | bcc | bcs | beq | bne | bmi | bpl | bvc | bvs => exact doBranch_withInputs _ ea i t s
  | mvn | mvp => exact congrArg (State.charge · _) (blockStep_withInputs i t s)
  | _ => rfl

theorem resolveEa_withInputs (o : Endian) (base : RelBase) (m : Mode) (i t : Bool) (s : State) :
    resolveEa o base m (Safety.withInputs i t s) = resolveEa o base m s := by
  cases m <;> rfl

theorem runEntry_withInputs (o : Endian) (base : RelBase) (e : Entry) (i t : Bool) (s : State) :
    runEntry o base e (Safety.withInputs i t s) = Safety.withInputs i t (runEntry o base e s) := by
  rw [runEntry, runEntry, ← handle_withInputs, ← resolveEa_withInputs o base e.mode i t s.fetched]
  rfl

/-! ### The writes of a step in order (20_memory.md R48) -/

theorem applyWrites_append (m : Memory) (l k : List Access) (o : Endian) :
    applyWrites m (l ++ k) o = applyWrites (applyWrites m l o) k o := by
  induction l generalizing m with
  | nil => rfl
  | cons a l ih => cases a <;> exact ih _

theorem applyWrites_of_reads {m : Memory} {l : List Access} {o : Endian} (h : ∀ a ∈ l, ∃ addr n, a = .read addr n) :
    applyWrites m l o = m := by
  induction l with
  | nil => rfl
  | cons a l ih =>
    obtain ⟨⟨addr, n, rfl⟩, hl⟩ := List.forall_mem_cons.mp h
    exact ih hl

/-- No resolver writes. -/
theorem applyWrites_resolverAccesses (m : Memory) (mode : Mode) (s : State) (o : Endian) :
    applyWrites m (resolverAccesses mode s) o = m := by
  cases mode <;> rfl

theorem doBranch_mem (c : Bool) (ea : QWord) (s : State) : (doBranch c ea s).mem = s.mem := by
  cases c <;> rfl

theorem blockStep_mem (s : State) : (blockStep s).mem = s.mem := by
  rw [blockStep_eq, State.setPC_mem, State.setALow_mem]

/-- A handler's memory is that of its list of calls. -/
theorem handle_mem (h : Handler) (tag : Option Width) (ea : QWord) (s : State) :
    (handle endian h tag ea s).mem = applyWrites s.mem (handlerAccesses endian h tag ea s) := by
  cases h with
  | cop =>
    refine (applyWrites_of_reads fun a ha => ?_).symm
    simp only [handlerAccesses, List.mem_cons, List.mem_map] at ha
    obtain rfl | rfl | ⟨i, -, rfl⟩ := ha <;> exact ⟨_, _, rfl⟩
  | bcc | bcs | beq | bne | bmi | bpl | bvc | bvs => exact doBranch_mem _ ea s
  | mvn | mvp => exact blockStep_mem s
  | _ => rfl

theorem runEntry_mem (base : RelBase) (e : Entry) (s : State) :
    (runEntry endian base e s).mem = applyWrites s.mem (Entry.accesses endian base e s) := by
  rw [runEntry, handle_mem, Entry.accesses, applyWrites, applyWrites_append, applyWrites_resolverAccesses]
  rfl

/-! ### The facade calls and the event of a step, case by case (20_memory.md R48, 60_exceptions.md R211, R220, R231) -/

section
variable {s : State}

theorem stepAccesses_of_stopped (h : s.stop ≠ .running) : stepAccesses s = [] := if_pos h

theorem stepAccesses_of_lookup_some {e : Entry} (hrun : s.stop = .running) (he : opcodeMap.lookup (s.read8 s.pc) = some e) :
    stepAccesses s = Entry.accesses endian relBase e s := by
  simp [stepAccesses, facadeAccesses, hrun, he]

theorem stepAccesses_of_unassigned (hrun : s.stop = .running) (hbyte : s.read8 s.pc ∉ opcodeMap.map Prod.fst) :
    stepAccesses s = [.read s.pc 1] := by
  simp [stepAccesses, facadeAccesses, hrun, (lookup_eq_none_iff_notMem _ _).mpr hbyte]

theorem stepEvent_of_stopped (h : s.stop ≠ .running) : stepEvent s = none := by
  simp [stepEvent, facadeEvent, h]

theorem stepEvent_of_untraced (h : s.trace = false) : stepEvent s = none := by
  simp [stepEvent, facadeEvent, h]

theorem stepEvent_of_lookup_some {e : Entry} (hrun : s.stop = .running) (htrace : s.trace = true)
    (he : opcodeMap.lookup (s.read8 s.pc) = some e) : stepEvent s = some (Entry.event endian relBase e s) := by
  simp [stepEvent, facadeEvent, hrun, htrace, he]

theorem stepEvent_of_unassigned (hbyte : s.read8 s.pc ∉ opcodeMap.map Prod.fst) : stepEvent s = none := by
  simp [stepEvent, facadeEvent, (lookup_eq_none_iff_notMem _ _).mpr hbyte]

end

end Sys2Proof.Machine

namespace Sys2Proof.Safety

open Sys2Proof.Machine

/-- Settles O6: the fetch fails for the bytes without a row alone, and each row runs the instruction that stands at `pc`. -/
theorem stepIsTheFacadeMachine : Obligations.StepIsTheFacadeMachine := step_eq_facadeStep

/-- A state that a step leaves as it is is left by any number of steps. -/
theorem run_of_fixed (M : Host.Core) {s : M.State} (h : M.step s = .next s) (n : Nat) : M.run n s = .next s := by
  induction n with
  | zero => rfl
  | succ n ih => simp only [Host.Core.run, h, ih]

/-- Settles O4, by running the decoder. -/
theorem wordsWrittenFromTheSpecDecode : Obligations.WordsWrittenFromTheSpecDecode :=
  ⟨rfl, rfl, rfl, rfl, rfl, rfl, rfl⟩

/-- Settles O7: a row runs, and a byte without one faults. -/
theorem stepOutcomesByOpcodeByte : Obligations.StepOutcomesByOpcodeByte := by
  unfold Obligations.StepOutcomesByOpcodeByte
  refine fun s => ⟨fun h => ?_, fun ⟨hrun, hbyte⟩ => step_of_unassigned hrun hbyte⟩
  by_cases hrun : s.stop = .running
  · obtain ⟨e, he⟩ := exists_lookup_of_mem (h.resolve_left (not_not_intro hrun))
    exact ⟨_, step_of_lookup_some hrun he⟩
  · exact ⟨s, step_of_stopped hrun⟩

/-- Settles O8: one step leaves the state, so any number of them does. -/
theorem stoppedCoreDoesNothingHoweverOftenStepped : Obligations.StoppedCoreDoesNothingHoweverOftenStepped :=
  fun _ n hs => ⟨run_of_fixed core (step_of_stopped hs) n, stepAccesses_of_stopped hs, stepEvent_of_stopped hs⟩

/-- Settles O13: the bits choose neither the case of a step nor what its row does. -/
theorem stepIgnoresPendingInterruptAndTrace : Obligations.StepIgnoresPendingInterruptAndTrace := by
  unfold Obligations.StepIgnoresPendingInterruptAndTrace
  intro s i t
  obtain hs | ⟨hrun, e, he⟩ | ⟨hrun, hbyte⟩ := s.stopped_or_row_or_unassigned
  · rw [step_of_stopped hs, step_of_stopped (s := withInputs i t s) hs]
    rfl
  · rw [step_of_lookup_some hrun he, step_of_lookup_some (s := withInputs i t s) hrun he, runEntry_withInputs]
    rfl
  · rw [step_of_unassigned hrun hbyte, step_of_unassigned (s := withInputs i t s) hrun hbyte]
    rfl

/-- Settles O18: a stopped core makes no call, and a row's calls write what its handler stores. -/
theorem memoryAfterAStepIsItsWritesInOrder : Obligations.MemoryAfterAStepIsItsWritesInOrder := by
  unfold Obligations.MemoryAfterAStepIsItsWritesInOrder
  intro s t h
  obtain hs | ⟨hrun, e, he⟩ | ⟨hrun, hbyte⟩ := s.stopped_or_row_or_unassigned
  · cases h.symm.trans (step_of_stopped hs)
    rw [stepAccesses_of_stopped hs, applyWrites]
  · cases h.symm.trans (step_of_lookup_some hrun he)
    rw [stepAccesses_of_lookup_some hrun he, runEntry_mem]
  · cases h.symm.trans (step_of_unassigned hrun hbyte)

end Sys2Proof.Safety
end

section
/-! Proofs for 48_shifts.md: the store of a shifted word (R195 to R198) and its write to A[15:0] (R199 to R202), each stated once for the
four shifts, which differ in the word and in the carry out. -/

namespace Sys2Proof.Safety

open Sys2Proof.Machine

/-! ### Memory shifts (48_shifts.md section 1) -/

section
variable (ea : QWord) (c : Bool) (r : Word) (s : State) (o : Endian)

@[simp] theorem shiftMem_pc : (shiftMem ea c r s o).pc = s.pc := by simp [shiftMem]

@[simp] theorem shiftMem_tpc : (shiftMem ea c r s o).tpc = s.tpc := by simp [shiftMem]

@[simp] theorem shiftMem_cycles : (shiftMem ea c r s o).cycles = s.cycles := by simp [shiftMem]

theorem shiftMem_flag_carry : (shiftMem ea c r s o).flag .carry = c := by
  simp [shiftMem, State.flag_setNZ16, State.flag_setFlag]

theorem shiftMem_nz16 : NZ16 r (shiftMem ea c r s o) := nz16_setNZ16 r _

theorem shiftMem_read16 : (shiftMem ea c r s o).read16 ea o = r :=
  (s.setFlag .carry c).read16_write16 ea r o

theorem shiftMem_sameBytesBut : SameBytesBut ea 2 s (shiftMem ea c r s o) := fun k hk =>
  (s.setFlag .carry c).read8_write16_outside ea k r o hk

theorem shiftMem_frame : Frame [] [.carry, .negative, .zero] s (shiftMem ea c r s o) := by
  have hwrite : Frame [] [.carry, .negative, .zero] s ((s.setFlag .carry c).write16 ea r o) :=
    (Frame.refl [] _ s).setFlag List.mem_cons_self c
  exact hwrite.setNZ16 (by decide) (by decide) r

end

/-- A shift of the word at `ea` after the fetch and the resolver, which leave flags and memory alone. -/
theorem completes_of_exec_eq_shiftMem {i : Instr} {s : State} {ea : QWord} {c : Bool} {r : Word} {n v : Nat} (mode : Mode)
    (hbytes : mode.operandBytes = 16) (h : exec i s = .next ((shiftMem ea c r (s.fetched.resolved mode)).charge n)) (hv : r.toNat = v) :
    Completes i s (ShiftedWord ea v c (baseCycles mode + n) s) := by
  subst hv
  have hread : ((shiftMem ea c r (s.fetched.resolved mode)).charge n).read16 ea = r :=
    shiftMem_read16 ea c r (s.fetched.resolved mode) endian
  have hcarry : ((shiftMem ea c r (s.fetched.resolved mode)).charge n).flag .carry = c :=
    shiftMem_flag_carry ea c r (s.fetched.resolved mode) endian
  have hnz : NZ16 r ((shiftMem ea c r (s.fetched.resolved mode)).charge n) :=
    shiftMem_nz16 ea c r (s.fetched.resolved mode) endian
  have hothers : SameBytesBut ea 2 (s.fetched.resolved mode) ((shiftMem ea c r (s.fetched.resolved mode)).charge n) :=
    shiftMem_sameBytesBut ea c r (s.fetched.resolved mode) endian
  have hadvanced : Advanced (1 + mode.operandBytes) (baseCycles mode + n) s ((shiftMem ea c r (s.fetched.resolved mode)).charge n) :=
    .of_resolved (by simp) (by simp) (by simp)
  rw [hbytes] at hadvanced
  refine ⟨_, h, congrArg BitVec.toNat hread, hcarry, ?_, hothers.of_resolved,
    ((shiftMem_frame ea c r _ endian).charge n).of_resolved, hadvanced⟩
  rwa [BitVec.ofNat_toNat, BitVec.setWidth_eq]

/-- Settles O48: the eight forms are four word functions at two effective addresses. -/
theorem memoryShifts : Obligations.MemoryShifts := by
  unfold Obligations.MemoryShifts
  intro s f
  simp only [bit_eq_toNat]
  refine ⟨?aslAbs, ?lsrAbs, ?rolAbs, ?rorAbs, ?aslAbsX, ?lsrAbsX, ?rolAbsX, ?rorAbsX⟩
  case aslAbs => exact completes_of_exec_eq_shiftMem .abs rfl rfl (aslWord_toNat _)
  case lsrAbs => exact completes_of_exec_eq_shiftMem .abs rfl rfl (lsrWord_toNat _)
  case rolAbs => exact completes_of_exec_eq_shiftMem .abs rfl rfl (rolWord_toNat _ _)
  case rorAbs => exact completes_of_exec_eq_shiftMem .abs rfl rfl (rorWord_toNat _ _)
  case aslAbsX => exact completes_of_exec_eq_shiftMem .absX rfl rfl (aslWord_toNat _)
  case lsrAbsX => exact completes_of_exec_eq_shiftMem .absX rfl rfl (lsrWord_toNat _)
  case rolAbsX => exact completes_of_exec_eq_shiftMem .absX rfl rfl (rolWord_toNat _ _)
  case rorAbsX => exact completes_of_exec_eq_shiftMem .absX rfl rfl (rorWord_toNat _ _)

/-! ### Accumulator shifts (48_shifts.md section 2) -/

section
variable (c : Bool) (r : Word) (s : State)

@[simp] theorem shiftAcc_pc : (shiftAcc c r s).pc = s.pc := by simp [shiftAcc]

@[simp] theorem shiftAcc_tpc : (shiftAcc c r s).tpc = s.tpc := by simp [shiftAcc]

@[simp] theorem shiftAcc_cycles : (shiftAcc c r s).cycles = s.cycles := by simp [shiftAcc]

theorem shiftAcc_flag_carry : (shiftAcc c r s).flag .carry = c := by
  simp [shiftAcc, State.flag_setNZ16, State.flag_setFlag]

theorem shiftAcc_nz16 : NZ16 r (shiftAcc c r s) := nz16_setNZ16 r _

theorem shiftAcc_narrowWrite : NarrowWrite s.a (shiftAcc c r s).a r.toNat := mergeLow_toNat s.a r

theorem shiftAcc_sameBytes : SameBytes s (shiftAcc c r s) := fun _ => rfl

theorem shiftAcc_frame : Frame [.a] [.carry, .negative, .zero] s (shiftAcc c r s) :=
  (((Frame.refl [.a] _ s).setFlag List.mem_cons_self c).setALow List.mem_cons_self r).setNZ16 (by decide) (by decide) r

end

/-- A shift of A[15:0] after the fetch, which leaves A and the flags alone. -/
theorem completes_of_exec_eq_shiftAcc {i : Instr} {s : State} {c c' : Bool} {r : Word} {n v : Nat}
    (h : exec i s = .next ((shiftAcc c r (s.fetched.resolved .acc)).charge n)) (hv : r.toNat = v) (hc : c = c') :
    Completes i s (ShiftedAcc v c' n s) := by
  subst hv hc
  have hcarry : ((shiftAcc c r (s.fetched.resolved .acc)).charge n).flag .carry = c := shiftAcc_flag_carry c r (s.fetched.resolved .acc)
  have hnz : NZ16 r ((shiftAcc c r (s.fetched.resolved .acc)).charge n) := shiftAcc_nz16 c r (s.fetched.resolved .acc)
  have hbytes : SameBytes (s.fetched.resolved .acc) ((shiftAcc c r (s.fetched.resolved .acc)).charge n) :=
    shiftAcc_sameBytes c r (s.fetched.resolved .acc)
  have hadvanced : Advanced 1 (0 + n) s ((shiftAcc c r (s.fetched.resolved .acc)).charge n) :=
    Advanced.of_resolved (m := .acc) (by simp) (by simp) (by simp)
  rw [Nat.zero_add] at hadvanced
  refine ⟨_, h, shiftAcc_narrowWrite c r (s.fetched.resolved .acc), hcarry, ?_, hbytes.of_resolved,
    ((shiftAcc_frame c r _).charge n).of_resolved, hadvanced⟩
  rwa [BitVec.ofNat_toNat, BitVec.setWidth_eq]

theorem aslWord_lowWord_toNat (v : QWord) : (aslWord (lowWord v)).toNat = v.toNat * 2 % 65536 := by
  rw [aslWord_toNat, lowWord_toNat, Nat.mod_mul_mod]

theorem lsrWord_lowWord_toNat (v : QWord) : (lsrWord (lowWord v)).toNat = v.toNat % 65536 / 2 := by
  rw [lsrWord_toNat, lowWord_toNat]

theorem rolWord_lowWord_toNat (v : QWord) (c : Bool) : (rolWord (lowWord v) c).toNat = v.toNat * 2 % 65536 + bit c := by
  rw [rolWord_toNat, lowWord_toNat, Nat.mod_mul_mod, bit_eq_toNat]

theorem rorWord_lowWord_toNat (v : QWord) (c : Bool) : (rorWord (lowWord v) c).toNat = v.toNat % 65536 / 2 + bit c * 32768 := by
  rw [rorWord_toNat, lowWord_toNat, bit_eq_toNat]

theorem shiftLeftCarry_lowWord (v : QWord) : shiftLeftCarry (lowWord v) = v.getLsbD 15 := by
  simp [shiftLeftCarry, lowWord]

theorem shiftRightCarry_lowWord (v : QWord) : shiftRightCarry (lowWord v) = v.getLsbD 0 := by
  simp [shiftRightCarry, lowWord]

/-- Settles O49: the four forms are the word functions of the memory shifts on A[15:0]. -/
theorem accumulatorShifts : Obligations.AccumulatorShifts := by
  unfold Obligations.AccumulatorShifts
  intro s
  refine ⟨?aslA, ?lsrA, ?rolA, ?rorA⟩
  case aslA => exact completes_of_exec_eq_shiftAcc rfl (aslWord_lowWord_toNat s.a) (shiftLeftCarry_lowWord s.a)
  case lsrA => exact completes_of_exec_eq_shiftAcc rfl (lsrWord_lowWord_toNat s.a) (shiftRightCarry_lowWord s.a)
  case rolA => exact completes_of_exec_eq_shiftAcc rfl (rolWord_lowWord_toNat s.a _) (shiftLeftCarry_lowWord s.a)
  case rorA => exact completes_of_exec_eq_shiftAcc rfl (rorWord_lowWord_toNat s.a _) (shiftRightCarry_lowWord s.a)

end Sys2Proof.Safety
end

section
/-! Proofs for 46_stack.md section 3, the pushes of an effective address or of what stands there (R173 to R175), and for the two returns: RTS
after JSR (42_branches_jumps.md section 2) and PLP then RTS after BRK (60_exceptions.md R227), put together from what each of the instructions
does. -/

namespace Sys2Proof.Safety

open Sys2Proof.Machine

/-- Settles O43: the three handlers push one word, read or computed before the push. -/
theorem effectiveAddressPushes : Obligations.EffectiveAddressPushes := by
  unfold Obligations.EffectiveAddressPushes
  refine fun s => ⟨fun f => ?_, fun p x => ?_, fun d => ?_⟩
  · exact ⟨_, rfl, pushedWord_push16 .abs _ _ s⟩
  · exact ⟨_, rfl, pushedWord_push16 .absInd _ _ s⟩
  · rw [← eaRel_fetched, BitVec.ofNat_toNat]
    exact ⟨_, rfl, pushedWord_push16 .rel _ _ s⟩

/-! ### Returns -/

/-- An instruction answers one next state: what it completes with holds there. -/
theorem Completes.of_exec {i : Instr} {s t : State} {Q : State → Prop} (h : Completes i s Q) (ht : exec i s = .next t) : Q t := by
  obtain ⟨t', ht', hQ⟩ := h
  cases ht.symm.trans ht'
  exact hQ

theorem eq_low16_of_toNat_eq {v a : QWord} (h : v.toNat = a.toNat % 65536) : v = low16 a := by
  apply BitVec.eq_of_toNat_eq
  rw [h, low16, BitVec.toNat_ofNat]
  omega

/-- RTS from a state that has the low word of `a` two bytes above its SP. -/
theorem completes_rts_of_return_word {t : State} {sp a : QWord} (hsp : t.sp + 2 = sp) (hword : (t.read16 sp).toNat = a.toNat % 65536) :
    Completes .rts t fun u => u.p = t.p ∧ u.sp = sp ∧ u.pc = low16 a := by
  obtain ⟨u, hexec, hpc, hspu, -, ⟨-, hflags, -⟩, -⟩ := rtsPullsThePc t
  rw [hsp] at hpc hspu
  exact ⟨u, hexec, State.p_eq_of_flags t u fun f => hflags f List.not_mem_nil, hspu, eq_low16_of_toNat_eq (hpc.trans hword)⟩

/-- Settles O32: both forms leave the return word two bytes above SP. -/
theorem rtsReturnsFromJsr : Obligations.RtsReturnsFromJsr := by
  unfold Obligations.RtsReturnsFromJsr
  intro s t f h
  obtain ⟨hword, hsp⟩ : (t.read16 s.sp).toNat = (s.pc + 17).toNat % 65536 ∧ t.sp = s.sp - 2 := by
    obtain ⟨habs, hxind⟩ := jsrPushesTheNextAddress s
    obtain h | h := h
    · obtain ⟨-, hword, hsp, -⟩ := (habs f).of_exec h
      exact ⟨hword, hsp⟩
    · obtain ⟨-, hword, hsp, -⟩ := (hxind f).of_exec h
      exact ⟨hword, hsp⟩
  obtain ⟨u, hexec, -, hu⟩ := completes_rts_of_return_word (hsp ▸ BitVec.sub_add_cancel s.sp 2) hword
  exact ⟨u, hexec, hu⟩

/-- Settles O34: BRK leaves P one byte above SP and the return word two bytes above that. -/
theorem plpThenRtsReturnsFromBrk : Obligations.PlpThenRtsReturnsFromBrk := by
  unfold Obligations.PlpThenRtsReturnsFromBrk
  intro s t h
  obtain ⟨hword, hsaved, hsp, -⟩ := (brkEntersTheTrap s).of_exec h
  obtain ⟨-, u, hplp, hp, hspu, hbytes, -⟩ := flagsPushAndPullAsOneByte t
  have hsp1 : t.sp + 1 = s.sp - 2 := by
    rw [hsp]
    bv_omega
  have hwordu : u.read16 s.sp = t.read16 s.sp := State.read16_congr endian fun i _ => hbytes _
  have hpu : u.p = s.p := by rw [hp, hsp1, hsaved]
  have hsp2 : u.sp + 2 = s.sp := by rw [hspu, hsp1, BitVec.sub_add_cancel]
  obtain ⟨v, hrts, hpv, hv⟩ := completes_rts_of_return_word hsp2 ((congrArg BitVec.toNat hwordu).trans hword)
  exact ⟨u, hplp, hpu, v, hrts, hpv.trans hpu, hv⟩

end Sys2Proof.Safety
end

section
/-! Proofs for 10_state.md and 60_exceptions.md R210, over all instructions: one frame for every instruction, from which the writers of each
register and flag (10_state.md R10, R17), the hidden state (R20, R24, R25) and the controller (60_exceptions.md R210) are read off; the
instructions that store (20_memory.md R48); and where `pc` and `tpc` go (10_state.md R14 to R16). -/

namespace Sys2Proof.Safety

open Sys2Proof.Machine

/-! ### The registers and flags an instruction may write (10_state.md R10, R17) -/

/-- The register table of 10_state.md R10 and 45_transfers.md. -/
def writesReg (r : Reg) (i : Instr) : Bool :=
  match r with
  | .a => writesA i
  | .b => false
  | .x => writesX i
  | .y => writesY i
  | .sp => writesSP i
  | .d => decide (i = .tcd)

/-- The registers (10_state.md R10, R11). -/
def allRegs : List Reg := [.a, .b, .x, .y, .sp, .d]

theorem mem_allRegs (r : Reg) : r ∈ allRegs := by cases r <;> decide

/-- The registers of which an instruction is a writer. -/
def writtenRegs (i : Instr) : List Reg := allRegs.filter (writesReg · i)

/-- The flags of which an instruction is a writer. -/
def writtenFlags (i : Instr) : List Flag := allFlags.filter (writesFlag · i)

theorem mem_writtenRegs {r : Reg} {i : Instr} : r ∈ writtenRegs i ↔ writesReg r i = true := by
  simp [writtenRegs, mem_allRegs]

theorem mem_writtenFlags {f : Flag} {i : Instr} : f ∈ writtenFlags i ↔ writesFlag f i = true := by
  simp [writtenFlags, mem_allFlags]

/-- A frame whose registers and flags the tables list is within the instruction's frame. -/
theorem Frame.written {rs : List Reg} {fs : List Flag} {s t : State} (h : Frame rs fs s t) {i : Instr}
    (hrs : rs.all (writesReg · i) = true) (hfs : fs.all (writesFlag · i) = true) : Frame (writtenRegs i) (writtenFlags i) s t :=
  h.mono (fun _ hr => mem_writtenRegs.mpr (List.all_eq_true.mp hrs _ hr)) fun _ hf => mem_writtenFlags.mpr (List.all_eq_true.mp hfs _ hf)

/-! ### What every instruction leaves unchanged -/

theorem setReg_nz64_frame (r : Reg) (v w : QWord) (n : Nat) (s : State) :
    Frame [r] [.negative, .zero] s (((setReg r v s).setNZ64 w).charge n) :=
  (((Frame.refl _ _ s).setReg (List.mem_singleton_self r) v).setNZ64 (by decide) (by decide) w).charge n

/-- The instructions that stop the core (60_exceptions.md R210). -/
def halts : Instr → Bool
  | .cop _ _ _ | .stp | .wai => true
  | _ => false

theorem exec_completes_frame (i : Instr) (s : State) (hi : halts i = false) : Completes i s (Frame (writtenRegs i) (writtenFlags i) s) := by
  cases i with
  | cop | stp | wai => cases hi
  | adcImm8 | adcImm16 | adcImm32 | adcImm64 | adcAbs | adcAbsX | adcAbsY | adcSR | adcSRIY =>
    exact ⟨_, rfl, (doAdc_frame _ _).of_resolved.written rfl rfl⟩
  | bcc | bcs | beq | bne | bmi | bpl | bvc | bvs | bra | brl => exact ⟨_, rfl, (doBranch_frame _ _ _).of_resolved.written rfl rfl⟩
  | jmpAbs | jmpInd | jmpXInd => exact ⟨_, rfl, (doJmp_frame _ _).of_resolved.written rfl rfl⟩
  | jsrAbs | jsrXInd => exact ⟨_, rfl, (doJsr_frame _ _ endian).of_resolved.written rfl rfl⟩
  | rts => exact ⟨_, rfl, (doRts_frame _ endian).of_resolved.written rfl rfl⟩
  | brk => exact ⟨_, rfl, ((enterTrap_frame _ endian).charge 8).of_resolved.written rfl rfl⟩
  | mvn | mvp => exact ⟨_, rfl, ((blockStep_frame _).charge _).of_resolved.written rfl rfl⟩
  | txa | tya | tsa | tba | tdc => exact ⟨_, rfl, (setReg_nz64_frame .a _ _ _ _).of_resolved.written rfl rfl⟩
  | tax | tyx | tsx => exact ⟨_, rfl, (setReg_nz64_frame .x _ _ _ _).of_resolved.written rfl rfl⟩
  | tay | txy => exact ⟨_, rfl, (setReg_nz64_frame .y _ _ _ _).of_resolved.written rfl rfl⟩
  | tas | txs => exact ⟨_, rfl, ((setReg_frame .sp _ _).charge _).of_resolved.written rfl rfl⟩
  | tcd => exact ⟨_, rfl, ((setReg_frame .d _ _).charge _).of_resolved.written rfl rfl⟩
  | pla => exact ⟨_, rfl, ((pullInto_frame .a _).charge _).of_resolved.written rfl rfl⟩
  | plx => exact ⟨_, rfl, ((pullInto_frame .x _).charge _).of_resolved.written rfl rfl⟩
  | ply => exact ⟨_, rfl, ((pullInto_frame .y _).charge _).of_resolved.written rfl rfl⟩
  | php => exact ⟨_, rfl, (doPhp_frame _).of_resolved.written rfl rfl⟩
  | plp => exact ⟨_, rfl, (doPlp_frame _).of_resolved.written rfl rfl⟩
  | repImm8 | sepImm8 => exact ⟨_, rfl, (((Frame.refl [] allFlags _).setP _).charge _).of_resolved.written rfl rfl⟩
  | trbAbs | tsbAbs => exact ⟨_, rfl, ((testThenStore_frame _ _ _).charge _).of_resolved.written rfl rfl⟩
  | pha | phx | phy | peaAbs | peiInd | perRel =>
    exact ⟨_, rfl, (((Frame.refl [.sp] [] _).push16 (List.mem_singleton_self _) _ endian).charge _).of_resolved.written rfl rfl⟩
  | aslAbs | aslAbsX | lsrAbs | lsrAbsX | rolAbs | rolAbsX | rorAbs | rorAbsX =>
    exact ⟨_, rfl, ((shiftMem_frame _ _ _ _ endian).charge _).of_resolved.written rfl rfl⟩
  | aslA | lsrA | rolA | rorA => exact ⟨_, rfl, ((shiftAcc_frame _ _ _).charge _).of_resolved.written rfl rfl⟩

theorem exec_completes_sameButController (i : Instr) (s : State) (hi : halts i = true) : Completes i s (SameButController s) := by
  cases i with
  | cop => exact ⟨_, rfl, (sameButController_doCop _ _ _).of_resolved⟩
  | stp | wai => exact ⟨_, rfl, (((SameButController.refl _).setStop _).charge _).of_resolved⟩
  | _ => cases hi

/-- No instruction writes a register or a flag of which the tables do not name it a writer, or the hidden state. -/
theorem exec_next_same {i : Instr} {s t : State} (h : exec i s = .next t) :
    SameRegsBut (writtenRegs i) s t ∧ SameFlagsBut (writtenFlags i) s t ∧ SameHidden s t := by
  cases hi : halts i with
  | false =>
    obtain ⟨hregs, hflags, -, hhidden⟩ := (exec_completes_frame i s hi).of_exec h
    exact ⟨hregs, hflags, hhidden⟩
  | true =>
    obtain ⟨hregs, hflags, hhidden, -⟩ := (exec_completes_sameButController i s hi).of_exec h
    exact ⟨fun r _ => hregs r List.not_mem_nil, fun f _ => hflags f List.not_mem_nil, hhidden⟩

theorem exec_next_reg {i : Instr} {s t : State} (h : exec i s = .next t) {r : Reg} (hr : reg t r ≠ reg s r) : writesReg r i = true := by
  obtain ⟨hregs, -⟩ := exec_next_same h
  exact mem_writtenRegs.mp (not_imp_comm.mp (hregs r) hr)

/-- Settles O15, register by register. -/
theorem registersChangeOnlyByTheirWriters : Obligations.RegistersChangeOnlyByTheirWriters := by
  unfold Obligations.RegistersChangeOnlyByTheirWriters
  intro i s t h
  have hb : t.b = s.b := not_imp_comm.mp (exec_next_reg h (r := .b)) nofun
  exact ⟨exec_next_reg h (r := .a), exec_next_reg h (r := .x), exec_next_reg h (r := .y), exec_next_reg h (r := .sp),
    fun hd => of_decide_eq_true (exec_next_reg h (r := .d) hd), hb⟩

/-- Settles O16: a changed flag is a written one. -/
theorem flagsChangeOnlyByTheirWriters : Obligations.FlagsChangeOnlyByTheirWriters := by
  unfold Obligations.FlagsChangeOnlyByTheirWriters
  intro i s t f h hf
  obtain ⟨-, hflags, -⟩ := exec_next_same h
  exact mem_writtenFlags.mp (not_imp_comm.mp (hflags f) hf)

/-- Settles O12: a stopped core stands still, and a running one executes an instruction. -/
theorem noStepTouchesHiddenState : Obligations.NoStepTouchesHiddenState := by
  unfold Obligations.NoStepTouchesHiddenState
  intro s t h
  obtain ⟨-, rfl⟩ | ⟨-, i, r, -, hexec⟩ := step_cases s t h
  · exact ⟨rfl, rfl, rfl, rfl, rfl⟩
  · obtain ⟨-, -, -, -, -, hb⟩ := registersChangeOnlyByTheirWriters i s t hexec
    obtain ⟨-, -, hhidden⟩ := exec_next_same hexec
    exact ⟨hb, hhidden⟩

theorem stopAfter_of_not_halts {i : Instr} (hi : halts i = false) (r : StopReason) : stopAfter i r = r := by
  cases i with
  | cop | stp | wai => cases hi
  | _ => rfl

/-- Settles O14: an instruction that does not stop the core keeps stop reason and capture, and of those that do COP alone captures. -/
theorem onlyHaltingInstructionsChangeTheController : Obligations.OnlyHaltingInstructionsChangeTheController := by
  unfold Obligations.OnlyHaltingInstructionsChangeTheController
  intro i s t h
  cases hi : halts i with
  | false =>
    obtain ⟨-, -, ⟨hstop, hcop⟩, -⟩ := (exec_completes_frame i s hi).of_exec h
    exact ⟨hstop.trans (stopAfter_of_not_halts hi s.stop).symm, fun hne => absurd hcop hne⟩
  | true =>
    cases i with
    | cop size op words =>
      obtain ⟨-, hstop, -⟩ := (copCapturesAndStops s size op words).of_exec h
      exact ⟨hstop, fun _ => ⟨size, op, words, rfl⟩⟩
    | stp =>
      obtain ⟨hstop, -, hcop, -⟩ := (stpAndWaiHalt s).1.of_exec h
      exact ⟨hstop, fun hne => absurd hcop hne⟩
    | wai =>
      obtain ⟨hstop, -, hcop, -⟩ := (stpAndWaiHalt s).2.of_exec h
      exact ⟨hstop, fun hne => absurd hcop hne⟩
    | _ => cases hi

/-! ### The instructions that store (20_memory.md R48) -/

/-- Every other instruction updates fields of the state that are not its memory. -/
theorem exec_completes_mem (i : Instr) (s : State) (hi : stores i = false) : Completes i s fun t => t.mem = s.mem := by
  cases s
  cases i with
  | bcc | bcs | beq | bne | bmi | bpl | bvc | bvs => exact ⟨_, rfl, doBranch_mem _ _ _⟩
  | mvn | mvp => exact ⟨_, rfl, blockStep_mem _⟩
  | jsrAbs | jsrXInd | brk | pha | phx | phy | peaAbs | peiInd | perRel | php | trbAbs | tsbAbs | aslAbs | aslAbsX | lsrAbs | lsrAbsX
  | rolAbs | rolAbsX | rorAbs | rorAbsX => cases hi
  | _ => exact ⟨_, rfl, rfl⟩

/-- Settles O17: an instruction without a store leaves memory as it is. -/
theorem memoryChangesOnlyByStores : Obligations.MemoryChangesOnlyByStores := by
  unfold Obligations.MemoryChangesOnlyByStores
  intro i s t k h hk
  by_contra hi
  have hmem := (exec_completes_mem i s (Bool.eq_false_of_not_eq_true hi)).of_exec h
  rw [State.read8_eq_get, State.read8_eq_get, hmem] at hk
  exact hk rfl

/-! ### Where `pc` and `tpc` go (10_state.md R14 to R16) -/

theorem exec_completes_tpc (i : Instr) (s : State) : Completes i s fun t => t.tpc = s.pc := by
  cases i with
  | bcc | bcs | beq | bne | bmi | bpl | bvc | bvs => exact ⟨_, rfl, doBranch_tpc _ _ _⟩
  | mvn | mvp => exact ⟨_, rfl, blockStep_tpc _⟩
  | brk => exact ⟨_, rfl, doBrk_tpc _ endian⟩
  | _ => exact ⟨_, rfl, rfl⟩

/-- An instruction that does not assign `pc` leaves it past the operand bytes of its row's mode. -/
theorem exec_leaves_pc_past_operands (i : Instr) (s : State) (hpc : assignsPC i = false) (hcop : ∀ size op words, i ≠ .cop size op words) :
    ∃ e t, opcodeMap.lookup i.opcode = some e ∧ exec i s = .next t ∧ (encode i).length = 1 + e.mode.operandBytes ∧
      t.pc = s.pc + 1 + BitVec.ofNat 64 e.mode.operandBytes := by
  cases i with
  | bcc | bcs | beq | bne | bmi | bpl | bvc | bvs | bra | brl | jmpAbs | jmpInd | jmpXInd | jsrAbs | jsrXInd | rts | brk | mvn | mvp =>
    cases hpc
  | cop size op words => exact absurd rfl (hcop size op words)
  | _ => exact ⟨_, _, rfl, rfl, rfl, rfl⟩

/-- Settles O20: COP moves past its payload, every other instruction past the operand bytes of its mode. -/
theorem programCounterAdvancesByTheLength : Obligations.ProgramCounterAdvancesByTheLength := by
  unfold Obligations.ProgramCounterAdvancesByTheLength
  intro i s t hwf h
  refine ⟨(exec_completes_tpc i s).of_exec h, fun hpc => ?_⟩
  by_cases hcop : ∃ size op words, i = .cop size op words
  · obtain ⟨size, op, words, rfl⟩ := hcop
    obtain ⟨-, -, ⟨hpast, -⟩, -⟩ := (copCapturesAndStops s size op words).of_exec h
    rw [hpast, ← lengthFrom_opcode (.cop size op words) size hwf (by rintro _ _ _ ⟨⟩; rfl)]
    rfl
  · simp only [not_exists] at hcop
    obtain ⟨e, t', -, ht', hlen, hpast⟩ := exec_leaves_pc_past_operands i s hpc hcop
    cases h.symm.trans ht'
    rw [hlen]
    exact hpast.trans (s.resolved_fetched_pc e.mode)

theorem setWidth_word_lt (w : Word) : (w.setWidth 64 : QWord).toNat < 65536 := by
  rw [BitVec.toNat_setWidth_of_le (by decide)]
  exact w.isLt

/-- Settles O21: the target is cut to a word, or was pulled or read as one. -/
theorem controlTransfersLandBelow64K : Obligations.ControlTransfersLandBelow64K := by
  unfold Obligations.ControlTransfersLandBelow64K
  intro i s t hi h
  have hpc : Completes i s fun t => t.pc.toNat < 65536 := by
    cases i with
    | bra | brl | jmpAbs | jmpInd | jmpXInd | jsrAbs | jsrXInd | rts | brk => exact ⟨_, rfl, setWidth_word_lt _⟩
    | _ => cases hi
  exact hpc.of_exec h

end Sys2Proof.Safety
end

section
/-! Proofs for 60_exceptions.md: the host's single calls (R212 to R216), the step at an unassigned byte (R220), sequences of host calls
(R217, R220, R223), and the trace event of a step (R231). -/

namespace Sys2Proof.Machine

theorem State.hostStep_of_unassigned {s : State} (hrun : s.stop = .running) (hbyte : s.read8 s.pc ∉ opcodeMap.map Prod.fst) :
    s.hostStep = (.faulted (.illegalOpcode (s.read8 s.pc) s.pc), s.haltIllegal (s.read8 s.pc)) := by
  simp [State.hostStep, step_of_unassigned hrun hbyte]

/-- What the host's step does: it takes the next state, or after the fault of an unassigned byte the halted core (60_exceptions.md R220). -/
theorem State.hostStep_cases (s : State) :
    (∃ t, step s = .next t ∧ s.hostStep = (.stepped (stepEvent s), t)) ∨
      s.hostStep = (.faulted (.illegalOpcode (s.read8 s.pc) s.pc), s.haltIllegal (s.read8 s.pc)) := by
  obtain hs | ⟨hrun, e, he⟩ | ⟨hrun, hbyte⟩ := s.stopped_or_row_or_unassigned
  · exact .inl ⟨s, step_of_stopped hs, by simp [State.hostStep, step_of_stopped hs]⟩
  · exact .inl ⟨_, step_of_lookup_some hrun he, by simp [State.hostStep, step_of_lookup_some hrun he]⟩
  · exact .inr (State.hostStep_of_unassigned hrun hbyte)

end Sys2Proof.Machine

namespace Sys2Proof.Safety

open Sys2Proof.Machine

/-! ### Single calls (60_exceptions.md R212 to R216) -/

/-- Settles O54: the call is one update of the stop reason. -/
theorem resumeSetsRunningAndNothingElse : Obligations.ResumeSetsRunningAndNothingElse :=
  fun _ => ⟨rfl, rfl, rfl, rfl⟩

/-- Settles O55: the call is one update of the pending bit, which on a set bit changes nothing. -/
theorem interruptOnlySetsThePendingBit : Obligations.InterruptOnlySetsThePendingBit := by
  unfold Obligations.InterruptOnlySetsThePendingBit
  refine fun s => ⟨rfl, rfl, rfl, rfl, rfl, rfl, rfl, fun r _ => ?_, fun _ => rfl, fun h => ?_⟩
  · cases r <;> rfl
  · cases s
    cases h
    rfl

/-- Settles O57, with a capture and without. -/
theorem drainReturnsTheCaptureAndClearsIt : Obligations.DrainReturnsTheCaptureAndClearsIt := by
  unfold Obligations.DrainReturnsTheCaptureAndClearsIt
  refine fun s => ⟨fun c hc => ?_, fun hc => ?_, rfl, rfl⟩
  · simp [hostCall, State.getCopInst, State.getCopInstSize, hc]
  · simp [hostCall, State.getCopInst, State.getCopInstSize, hc]

/-! ### The step at an unassigned byte (60_exceptions.md R220) -/

/-- Settles O58: the step faults, and the halted core is the fetched one with its stop reason and record. -/
theorem illegalOpcodeHaltsTheCore : Obligations.IllegalOpcodeHaltsTheCore := by
  unfold Obligations.IllegalOpcodeHaltsTheCore
  intro s hrun hbyte
  rw [hostCall, State.hostStep_of_unassigned hrun hbyte]
  refine ⟨rfl, rfl, ⟨rfl, rfl, rfl⟩, rfl, rfl, rfl, rfl, rfl, fun r _ => ?_, fun _ _ => rfl, fun _ => rfl,
    stepAccesses_of_unassigned hrun hbyte, stepEvent_of_unassigned hbyte⟩
  cases r <;> rfl

/-! ### Sequences of host calls (60_exceptions.md R217, R220, R223) -/

/-- A call keeps the invariant: a reset to 128 entries makes it anew, a step keeps it or halts the core beside it, a drain empties the
capture, and a byte is written as a store writes it. -/
theorem hostCall_inv {c : HostCall} {s : State} (hz : ∀ rs t, c = .reset rs t → rs.z.length = 128) (hs : Inv s) :
    Inv (hostCall c s).2 := by
  cases c with
  | reset rs t =>
    obtain ⟨hmem, -⟩ := hs
    exact resetMeetsTheInvariant.2 rs t s (hz rs t rfl) hmem
  | step =>
    obtain ⟨t, ht, hhost⟩ | hhost := s.hostStep_cases
    · rw [hostCall, hhost]
      exact stepKeepsTheInvariant s t hs ht
    · rw [hostCall, hhost]
      exact hs.of_same rfl rfl rfl
  | getCopInst =>
    obtain ⟨hmem, hzlen, -⟩ := hs
    exact ⟨hmem, hzlen, nofun⟩
  | poke addr v => exact hs.write8 addr v
  | _ => exact hs

/-- Settles O11, call by call. -/
theorem hostCallsKeepTheInvariant : Obligations.HostCallsKeepTheInvariant := by
  unfold Obligations.HostCallsKeepTheInvariant
  intro cs
  induction cs with
  | nil => exact fun _ _ hs => hs
  | cons c cs ih =>
    intro s hz hs
    have hfirst : Inv (hostCall c s).2 := hostCall_inv (fun rs t hc => hz rs t (hc ▸ List.mem_cons_self)) hs
    exact ih _ (fun rs t hmem => hz rs t (List.mem_cons_of_mem c hmem)) hfirst

theorem hostCall_illegal (c : HostCall) (s : State) : s.illegal <+: (hostCall c s).2.illegal := by
  cases c with
  | step =>
    obtain ⟨t, ht, hs⟩ | hs := s.hostStep_cases
    · obtain ⟨-, -, -, -, hillegal⟩ := noStepTouchesHiddenState s t ht
      rw [hostCall, hs, hillegal]
    · rw [hostCall, hs]
      exact List.prefix_append ..
  | _ => exact List.prefix_rfl

/-- Settles O59: each call keeps the record or adds to its end. -/
theorem illegalRecordIsNeverErased : Obligations.IllegalRecordIsNeverErased := by
  unfold Obligations.IllegalRecordIsNeverErased
  intro cs
  induction cs with
  | nil => exact fun _ => List.prefix_rfl
  | cons c cs ih => exact fun s => (hostCall_illegal c s).trans (ih _)

/-- A call that executes no COP leaves an empty capture empty. -/
theorem hostCall_cop_eq_none {c : HostCall} {s : State} (hs : s.cop = none)
    (hc : c = .step → s.stop = .running → ∀ size op words rest, fetchInstr s.mem s.pc ≠ .ok (.cop size op words, rest)) :
    (hostCall c s).2.cop = none := by
  cases c with
  | step =>
    obtain ⟨t, ht, hhost⟩ | hhost := s.hostStep_cases
    · rw [hostCall, hhost, ← hs]
      obtain ⟨-, rfl⟩ | ⟨hrun, i, r, hfetch, hexec⟩ := step_cases s t ht
      · rfl
      · by_contra hne
        obtain ⟨-, hcop⟩ := onlyHaltingInstructionsChangeTheController i s t hexec
        obtain ⟨size, op, words, rfl⟩ := hcop hne
        exact hc rfl hrun size op words r hfetch
    · rw [hostCall, hhost]
      exact hs
  | reset | getCopInst => rfl
  | _ => exact hs

theorem hostCalls_cop_eq_none {cs : List HostCall} {s : State} (hs : s.cop = none) (hcs : NoCop cs s) : (hostCalls cs s).cop = none := by
  induction cs generalizing s with
  | nil => exact hs
  | cons c cs ih =>
    obtain ⟨hc, hrest⟩ := hcs
    exact ih (hostCall_cop_eq_none hs hc) hrest

/-- Settles O56: the drain empties the capture, and it stays empty. -/
theorem drainedCaptureStaysEmptyUntilTheNextCop : Obligations.DrainedCaptureStaysEmptyUntilTheNextCop := by
  unfold Obligations.DrainedCaptureStaysEmptyUntilTheNextCop
  intro s cs hcs
  have hempty : (hostCalls cs (hostCall .getCopInst s).2).cop = none := hostCalls_cop_eq_none rfl hcs
  obtain ⟨-, hnone, -⟩ := drainReturnsTheCaptureAndClearsIt (hostCalls cs (hostCall .getCopInst s).2)
  obtain ⟨hdrain, -⟩ := hnone hempty
  refine ⟨?_, hdrain⟩
  rw [State.getCopInstSize, hempty]

/-! ### The trace event (60_exceptions.md R231) -/

/-- The table of events is the map with its mnemonics. -/
theorem eventRows_eq_map :
    eventRows = opcodeMap.map fun r => (r.1, Handler.mnemonic r.2.handler ++ widthSuffix r.2.tag, r.2.mode) := by
  decide

/-- No row of the map is hidden by another one of its byte. -/
theorem lookup_of_mem_opcodeMap : ∀ r ∈ opcodeMap, opcodeMap.lookup r.1 = some r.2 := by decide

/-- The resolver of each mode, its displacements signed, gives the spec's address. -/
theorem resolveEa_eq_eventAddress (m : Mode) (s : State) :
    (if m.unusedEa then none else some (resolveEa endian relBase m s.fetched)) = eventAddress m s := by
  cases m with
  | rel => exact congrArg some (eaRel_fetched _ s)
  | sr => exact congrArg some (plusInt_toInt s.sp _).symm
  | srIY => exact congrArg (fun a => some (s.read64 a + s.y)) (plusInt_toInt s.sp _).symm
  | _ => rfl

theorem event_eq (e : Entry) (s : State) :
    Entry.event endian relBase e s = ⟨Handler.mnemonic e.handler ++ widthSuffix e.tag, eventAddress e.mode s⟩ := by
  rw [Entry.event, resolveEa_eq_eventAddress]

theorem stepEvent_isSome_iff (s : State) :
    (stepEvent s).isSome = true ↔ s.stop = .running ∧ s.trace = true ∧ s.read8 s.pc ∈ opcodeMap.map Prod.fst := by
  constructor
  · intro h
    refine ⟨?_, ?_, ?_⟩ <;> by_contra hne
    · simp [stepEvent_of_stopped hne] at h
    · simp [stepEvent_of_untraced (Bool.eq_false_of_not_eq_true hne)] at h
    · simp [stepEvent_of_unassigned hne] at h
  · rintro ⟨hrun, htrace, hbyte⟩
    obtain ⟨e, he⟩ := exists_lookup_of_mem hbyte
    rw [stepEvent_of_lookup_some hrun htrace he, Option.isSome_some]

/-- Settles O60: each row of the table is a row of the map, whose event is its mnemonic and its resolved address. -/
theorem traceEventsOfExecutedSteps : Obligations.TraceEventsOfExecutedSteps := by
  unfold Obligations.TraceEventsOfExecutedSteps
  refine fun s => ⟨stepEvent_isSome_iff s, ?_, fun r hr hrun htrace hbyte => ?_⟩
  · rw [eventRows_eq_map, List.map_map]
    rfl
  · rw [eventRows_eq_map] at hr
    obtain ⟨row, hrow, rfl⟩ := List.mem_map.mp hr
    rw [stepEvent_of_lookup_some hrun htrace (hbyte ▸ lookup_of_mem_opcodeMap row hrow), event_eq]

end Sys2Proof.Safety
end
